-- ==== Sys2Proof/Word.lean ====
section
/-! DEFINITION. The words that cross the core's two ports, and the widths the spec gives its values.

There is no byte order here: no access of the core moves more than one element (R38), so a word is one bit vector. -/

namespace Sys2Proof

/-- A word at one of the core's ports: an operation delivered to the core (R59, 16 bits) or a
command to a collaborator (R62, 32 bits). The two encodings are told apart by the port alone (R64). -/
inductive PortWord where
  | op (w : BitVec 16)
  | cmd (w : BitVec 32)
  deriving DecidableEq, Repr

/-- An 8-bit framebuffer sample, and an index of the Gamma LUT (R34, R37). -/
abbrev Sample := BitVec 8

/-- A 10-bit Gamma LUT or row-cache entry (R34, R35, R54). -/
abbrev Drive := BitVec 10

/-- One byte of a line-buffer bank (R36). -/
abbrev LineByte := BitVec 8

/-- A framebuffer handle: the set `FbHandle` as the operation word encodes it (R11, R59). -/
abbrev Handle := BitVec 12

/-- A row pair, 0 to 31 (R17). -/
abbrev RowPair := BitVec 5

/-- A phase register, 4 bits, 0 to 9 in use (R18). -/
abbrev Phase := BitVec 4

/-- A line-buffer bank index, 0 or 1 (R19, R36). -/
abbrev BankIx := BitVec 1

/-- A pulse duration in ticks, as wide as ARM_PULSE's field (R62, R63). -/
abbrev Ticks := BitVec 28

end Sys2Proof
end

