-- ==== Sys2Proof/Syntax.lean ====
section
/-! DEFINITION. The instructions: one constructor for each row of spec/opcode_table.json (eight operations the core
accepts, R59, and eight commands it emits, R62), the commands as a type of their own, and the refusal codes of R111. -/

namespace Sys2Proof

/-- The rows of the opcode table. The first eight are operation words (R59), the rest command words (R62). -/
inductive Instr where
  /-- START (R80). -/
  | start
  /-- TRANSFER_COMPLETE (R81). -/
  | transferComplete
  /-- PULSE_COMPLETE (R84). -/
  | pulseComplete
  /-- SET_BRIGHTNESS_SKIP n (R91). -/
  | setBrightnessSkip (n : BitVec 4)
  /-- SET_FRAMEBUFFER h (R93). -/
  | setFramebuffer (h : Handle)
  /-- T_GAMMA i (R70). -/
  | tGamma (i : Sample)
  /-- T_LOAD r (R73). -/
  | tLoad (r : RowPair)
  /-- T_RENDER p, b (R79). -/
  | tRender (p : Phase) (b : BankIx)
  /-- ACK_TRANSFER (R96). -/
  | ackTransfer
  /-- ACK_PULSE (R97). -/
  | ackPulse
  /-- ARM_PULSE d (R100). -/
  | armPulse (d : Ticks)
  /-- STOP_CLOCK (R101). -/
  | stopClock
  /-- START_CLOCK (R101). -/
  | startClock
  /-- START_TRANSFER b, 65 (R99). -/
  | startTransfer (b : BankIx)
  /-- SET_ROW r (R98). -/
  | setRow (r : RowPair)
  /-- GAMMA_RESULT v (R102). -/
  | gammaResult (v : Drive)
  deriving DecidableEq, Repr

/-- An output command of the core (R62): what `emit CMD(args)` of R14 appends to the step's command list. -/
inductive Command where
  | ackTransfer
  | ackPulse
  | armPulse (d : Ticks)
  | stopClock
  | startClock
  | startTransfer (b : BankIx)
  | setRow (r : RowPair)
  | gammaResult (v : Drive)
  deriving DecidableEq, Repr

/-- The refusals of R111, in the order of their codes 16 to 21. -/
inductive RefusalCode where
  | reservedOpcode
  | nonzeroReservedBits
  | skipRange
  | phaseRange
  | gammaConfig
  | baseConfig
  deriving DecidableEq, Repr

end Sys2Proof
end

