-- ==== Sys2Proof/WellFormed.lean ====
section
/-! DEFINITION. The instructions a word can name: the two operand ranges that are narrower than their fields (R59). -/

namespace Sys2Proof

/-- `n` of SET_BRIGHTNESS_SKIP is in 0..=10 (R91). -/
abbrev skipInRange (n : BitVec 4) : Prop := n.toNat ≤ 10

/-- `p` of T_RENDER is in 0..10 (R79). -/
abbrev phaseInRange (p : Phase) : Prop := p.toNat < 10

/-- The range constraints of R59 and R61. Every other operand may take every value of its field. -/
def Instr.wellFormed : Instr → Bool
  | .start => true
  | .transferComplete => true
  | .pulseComplete => true
  | .setBrightnessSkip n => decide (skipInRange n)
  | .setFramebuffer _ => true
  | .tGamma _ => true
  | .tLoad _ => true
  | .tRender p _ => decide (phaseInRange p)
  | .ackTransfer => true
  | .ackPulse => true
  | .armPulse _ => true
  | .stopClock => true
  | .startClock => true
  | .startTransfer _ => true
  | .setRow _ => true
  | .gammaResult _ => true

end Sys2Proof
end

