-- ==== Sys2Proof/Decode.lean ====
section
/-! DEFINITION. Decoding and encoding of operation words (R59 to R61) and command words (R62, R63). Decoding is total:
every word is either one instruction or rejected under a name. -/

namespace Sys2Proof

/-- The numbers of the refusal codes (R111). -/
def RefusalCode.code : RefusalCode → Nat
  | .reservedOpcode => 16
  | .nonzeroReservedBits => 17
  | .skipRange => 18
  | .phaseRange => 19
  | .gammaConfig => 20
  | .baseConfig => 21

/-- Why a word names no instruction: an operation word is refused with a code of R111; a command word is
one that the core never emits (R62). -/
inductive DecodeError where
  | refused (c : RefusalCode)
  | neverEmitted (w : BitVec 32)
  deriving DecidableEq, Repr

/-! ### Operation words -/

/-- Bits [15:12] of an operation word (R59). -/
def opcodeOf (w : BitVec 16) : BitVec 4 := w.extractLsb' 12 4

/-- The operand field that starts at bit `lo` and is `n` bits wide (R60: unsigned, unscaled, unshifted). -/
def opField (w : BitVec 16) (lo n : Nat) : BitVec n := w.extractLsb' lo n

/-- An instruction whose "must be 0" bits are `z` (R61). -/
def requireZero {n : Nat} (z : BitVec n) (i : Except RefusalCode Instr) : Except RefusalCode Instr :=
  if z = 0 then i else .error .nonzeroReservedBits

/-- The decoder of operation words (R59, R61). Where several reasons of R61 hold, the first in R61's order is
given: the opcode, then the reserved bits, then the range (log entry 9). -/
def decodeOp (w : BitVec 16) : Except RefusalCode Instr :=
  match opcodeOf w with
  | 0x1#4 => requireZero (opField w 0 12) (.ok .start)
  | 0x2#4 => requireZero (opField w 0 12) (.ok .transferComplete)
  | 0x3#4 => requireZero (opField w 0 12) (.ok .pulseComplete)
  | 0x4#4 => requireZero (opField w 4 8)
      (if skipInRange (opField w 0 4) then .ok (.setBrightnessSkip (opField w 0 4)) else .error .skipRange)
  | 0x5#4 => .ok (.setFramebuffer (opField w 0 12))
  | 0x8#4 => requireZero (opField w 8 4) (.ok (.tGamma (opField w 0 8)))
  | 0x9#4 => requireZero (opField w 5 7) (.ok (.tLoad (opField w 0 5)))
  | 0xA#4 => requireZero (opField w 5 7)
      (if phaseInRange (opField w 0 4) then .ok (.tRender (opField w 0 4) (opField w 4 1)) else .error .phaseRange)
  | _ => .error .reservedOpcode

/-! ### Command words -/

/-- Bits [31:28] of a command word (R62). -/
def cmdCodeOf (w : BitVec 32) : BitVec 4 := w.extractLsb' 28 4

/-- The command operand field that starts at bit `lo` and is `n` bits wide (R62). -/
def cmdField (w : BitVec 32) (lo n : Nat) : BitVec n := w.extractLsb' lo n

/-- The decoder of command words (R62). `none` is a word the core never emits: a code of R62's last row, or bits
that R62 gives as 0 (or a length other than 65) with another value. -/
def decodeCmd (w : BitVec 32) : Option Instr :=
  match cmdCodeOf w with
  | 0x1#4 => if cmdField w 0 28 = 0 then some .ackTransfer else none
  | 0x2#4 => if cmdField w 0 28 = 0 then some .ackPulse else none
  | 0x3#4 => some (.armPulse (cmdField w 0 28))
  | 0x4#4 => if cmdField w 0 28 = 0 then some .stopClock else none
  | 0x5#4 => if cmdField w 0 28 = 0 then some .startClock else none
  | 0x6#4 =>
    if cmdField w 9 19 = 0 ∧ cmdField w 0 8 = 0x41#8 then some (.startTransfer (cmdField w 8 1)) else none
  | 0x7#4 => if cmdField w 5 23 = 0 then some (.setRow (cmdField w 0 5)) else none
  | 0x8#4 => if cmdField w 10 18 = 0 then some (.gammaResult (cmdField w 0 10)) else none
  | _ => none

/-- The whole decoder: the port names the encoding (R64). -/
def decode : PortWord → Except DecodeError Instr
  | .op w =>
    match decodeOp w with
    | .ok i => .ok i
    | .error c => .error (.refused c)
  | .cmd w =>
    match decodeCmd w with
    | some i => .ok i
    | none => .error (.neverEmitted w)

/-- The word of the host's opcode-table row: a row of at most 16 bits is an operation word, a wider one a
command word; the bits above `nbits` are 0. -/
def tablePortWord (nbits w : Nat) : PortWord :=
  if nbits ≤ 16 then .op (BitVec.ofNat 16 (w % 2 ^ nbits)) else .cmd (BitVec.ofNat 32 (w % 2 ^ nbits))

/-- What the decoder reads from a table row's word. -/
def decodeTableWord (nbits w : Nat) : Option Instr :=
  match decode (tablePortWord nbits w) with
  | .ok i => some i
  | .error _ => none

/-! ### The encoder -/

/-- The command word of R62. -/
def encodeCommand : Command → BitVec 32
  | .ackTransfer => 0x1#4 ++ 0#28
  | .ackPulse => 0x2#4 ++ 0#28
  | .armPulse d => 0x3#4 ++ d
  | .stopClock => 0x4#4 ++ 0#28
  | .startClock => 0x5#4 ++ 0#28
  | .startTransfer b => 0x6#4 ++ 0#19 ++ b ++ 0x41#8
  | .setRow r => 0x7#4 ++ 0#23 ++ r
  | .gammaResult v => 0x8#4 ++ 0#18 ++ v

/-- The word of an instruction, from the tables of R59 and R62. -/
def encode : Instr → PortWord
  | .start => .op (0x1#4 ++ 0#12)
  | .transferComplete => .op (0x2#4 ++ 0#12)
  | .pulseComplete => .op (0x3#4 ++ 0#12)
  | .setBrightnessSkip n => .op (0x4#4 ++ 0#8 ++ n)
  | .setFramebuffer h => .op (0x5#4 ++ h)
  | .tGamma i => .op (0x8#4 ++ 0#4 ++ i)
  | .tLoad r => .op (0x9#4 ++ 0#7 ++ r)
  | .tRender p b => .op (0xA#4 ++ 0#7 ++ b ++ p)
  | .ackTransfer => .cmd (encodeCommand .ackTransfer)
  | .ackPulse => .cmd (encodeCommand .ackPulse)
  | .armPulse d => .cmd (encodeCommand (.armPulse d))
  | .stopClock => .cmd (encodeCommand .stopClock)
  | .startClock => .cmd (encodeCommand .startClock)
  | .startTransfer b => .cmd (encodeCommand (.startTransfer b))
  | .setRow r => .cmd (encodeCommand (.setRow r))
  | .gammaResult v => .cmd (encodeCommand (.gammaResult v))

end Sys2Proof
end

