-- ==== Sys2Proof/Config.lean ====
section
/-! DEFINITION. The parameters of R11, as plain data, their defaults, and the free values.

A parameter is an argument of the model (92_eei_decisions.md, opening paragraph): the machine carries a
`Config` in its state, which no step writes, so a statement about every state is one about every configuration. -/

namespace Sys2Proof

/-- The two ways a model can use the core (44_interfaces.md, introduction; D16). -/
inductive Use where
  /-- The operations are a script, and the commands are only recorded. -/
  | openUse
  /-- The collaborators are agents: each command changes their state, and their steps raise the two events. -/
  | closedUse
  deriving DecidableEq, Repr

/-- The parameters of R11 that a rule reads. -/
structure Config where
  /-- `GAMMA`, 256 entries; not yet known to be admitted (R67), so an entry is any natural. -/
  gamma : Vector Nat 256
  /-- `BASE`, in ticks; not yet known to be admitted (R63). -/
  base : Nat
  /-- `PLANE_BIT`: the line-buffer bit of each of the six planes (R55, D4). -/
  planeBit : Vector (Fin 6) 6
  /-- `FB_LATCH_AT_FRAME` (R48, D14). -/
  fbLatchAtFrame : Bool
  /-- Open or closed use (D16). -/
  use : Use
  deriving DecidableEq, Repr

/-- `TICK`, the duration of one pulse-generator tick (R11): left open, and read by no rule. -/
opaque Config.tick : Nat

/-- A free value: the sample a framebuffer holds at a place that the state does not list. `FbMem` is
host-owned content, left open (R11, R37, D20); nothing constrains this value. See log entry 6. -/
opaque Config.freeSample : Nat → BitVec 8

/-- `GAMMA_default(i)`: round(1023 (i / 255)^3) in integers, halves up (R68). -/
def gammaDefault (i : Nat) : Nat := (2 * 1023 * i ^ 3 + 255 ^ 3) / (2 * 255 ^ 3)

/-- The configuration of the reset state: the default table (R68), the identity `PLANE_BIT` (R55), no frame latch
(D14), `BASE = 1` as 95_test_vectors.md section 0 has it, and open use. DESIGN CHOICE for the last two: log entries 1 and 2. -/
def Config.default : Config where
  gamma := Vector.mk ((List.range 256).map gammaDefault).toArray (by simp)
  base := 1
  planeBit := Vector.ofFn fun k => k
  fbLatchAtFrame := false
  use := .openUse

end Sys2Proof
end

