-- ==== Sys2Proof/Machine/State.lean ====
section
/-! DEFINITION. The machine's state as plain data, holding everything 10_state.md, 20_memory.md, 40_gamma_rowcache.md R71
(`fbframe`), 44_interfaces.md and 60_exceptions.md (the sticky marks) name; the reasons a step stops; the state after reset. -/

namespace Sys2Proof.Machine

/-- The protocol state `proto` (R24). -/
inductive Proto where
  | idle
  | awaitTC
  | awaitPC
  deriving DecidableEq, Repr

/-- What the sticky register `fault` records: the reason of R109 and its recorded information. -/
inductive FaultRecord where
  /-- 1 DOUBLE_START: START with `proto` not `Idle`. -/
  | doubleStart (word : PortWord)
  /-- 2 EVENT_ORDER: a scheduler event in a protocol state that does not await it. -/
  | eventOrder (word : PortWord) (proto : Proto)
  /-- 3 NO_FRAMEBUFFER: a row-cache load whose handle is NONE. -/
  | noFramebuffer (r : RowPair)
  /-- 4 UNWRITTEN: a render that reads a row-cache entry with no value. -/
  | unwritten (column : Fin 64) (plane : Fin 6)
  /-- 4 UNWRITTEN: a transfer that reads a line-buffer byte with no value (R28, D9; log entry 8). -/
  | unwrittenByte (bank : BankIx) (index : Fin 65)
  /-- 5 TEST_AFTER_START: a test-port operation with `proto` not `Idle`. -/
  | testAfterStart (word : PortWord)
  /-- 6 COLLAB_BUSY: a transfer or a pulse started while one is in progress. -/
  | collabBusy (word : BitVec 32)
  deriving DecidableEq, Repr

/-- How a step stops with a fault. -/
inductive Fault where
  /-- Raised by `step`, and only when the sticky register `fault` was set by an earlier step: no step is enabled
  (R110). Safe: the spec gives no step there. -/
  | stopped (f : FaultRecord)
  deriving DecidableEq, Repr

/-- How a step refuses. -/
inductive Refusal where
  /-- Raised by an arm of `exec` whose instruction has no meaning yet. Safe. No arm does so now. -/
  | notModelled (mnemonic : String)
  /-- Raised by `step`, and only when the sticky mark `refused` was set by an earlier step: no step is enabled
  (R111). Safe: the spec gives no step there. -/
  | stopped (c : RefusalCode)
  /-- Raised by `step` on a command word that the core never emits (R62): it has no meaning. Safe (log entry 10). -/
  | neverEmitted (w : BitVec 32)
  /-- Raised by `step` when the host writes a sample of an installed framebuffer: the run is outside what the spec
  describes (R52). Safe (log entry 6). -/
  | installedFramebufferChanged (h : Handle)
  deriving DecidableEq, Repr

/-- The row cache `RC`: 64 columns by 6 planes of 10 bits; `none` is "no value" (R28, R35). -/
abbrev RowCache := Vector (Vector (Option Drive) 6) 64

/-- One line-buffer bank: 65 bytes; `none` is "no value" (R28, R36). -/
abbrev Bank := Vector (Option LineByte) 65

/-- The framebuffer memory: the samples the host has placed, by element key, keys strictly rising (R37; log entry 6). -/
abbrev Memory := List Host.Cell

/-- A transfer in progress: the record `(bank, data, sent)` of R26. -/
structure Transfer where
  bank : BankIx
  data : Vector LineByte 65
  sent : Nat
  deriving DecidableEq, Repr

/-- The observation `Display(rowaddr, latched, d)` of R100: rows `row` and `row + 32` show `shown` for `ticks` ticks. -/
structure Display where
  row : RowPair
  shown : Option (Vector LineByte 64)
  ticks : Ticks
  deriving DecidableEq, Repr

/-- The agents that act on their own in closed use: the two collaborator steps (R103, R104) and the delivery of the
two events (R105). -/
inductive Agent where
  | transferByte
  | pulseEnd
  | transferEvent
  | pulseEvent
  deriving DecidableEq, Repr

/-- One entry of the schedule: which agent moves next, and with what. -/
inductive Input where
  /-- A word at one of the ports: an operation of the host or the script, or a command. -/
  | word (w : PortWord)
  /-- An agent of closed use takes its step. -/
  | agent (a : Agent)
  /-- The host writes the sample at row `y`, column `x`, channel `ch` of a framebuffer (R37, R52). -/
  | hostSample (h : Handle) (y x : BitVec 6) (ch : Fin 3) (v : Sample)
  deriving DecidableEq, Repr

/-- The state. Field by field, INVENTORY.md '## State' gives the rule that names it and its reset value. -/
@[ext]
structure State where
  /-- The parameters of R11; written by no step. -/
  cfg : Config
  /-- `rp`, `ph`, `ab`, `skip`, `fbref`: the engine registers (R17 to R21). -/
  rp : RowPair
  ph : Phase
  ab : BankIx
  skip : BitVec 4
  fbref : Option Handle
  /-- `fbframe` of the `FB_LATCH_AT_FRAME` variant (R71). -/
  fbframe : Option Handle
  /-- `proto` (R24) and `rowaddr` (R25). -/
  proto : Proto
  rowaddr : RowPair
  /-- `RC`, `LB[0]`, `LB[1]` (R27, R28). -/
  rc : RowCache
  lb0 : Bank
  lb1 : Bank
  /-- The model-only counters `n_load` and `n_render` (R29). -/
  nLoad : Nat
  nRender : Nat
  /-- The collaborators' state (R26). -/
  clkRun : Bool
  xfer : Option Transfer
  tcPend : Bool
  pulse : Option Ticks
  pcPend : Bool
  oeN : BitVec 1
  latched : Option (Vector LineByte 64)
  /-- The byte last driven on the data lines (R103; log entry 14). -/
  dataLines : LineByte
  /-- The commands emitted so far, as command words, oldest first (R9, R14; 44_interfaces.md, open use). -/
  cmds : List (BitVec 32)
  /-- The Display records so far, oldest first (R100). -/
  displays : List Display
  /-- The sticky marks `fault` (R110) and `refused` (R111). -/
  fault : Option FaultRecord
  refused : Option RefusalCode
  /-- The framebuffer memory the host has placed (R16, R37). -/
  fb : Memory
  /-- The schedule: what the environment does next, first entry first (log entry 5). -/
  inputs : List Input
  deriving DecidableEq, Repr

/-- The state after reset (R124). -/
def State.reset : State where
  cfg := Config.default
  rp := 0
  ph := 0
  ab := 0
  skip := 0
  fbref := none
  fbframe := none
  proto := .idle
  rowaddr := 0
  rc := Vector.replicate 64 (Vector.replicate 6 none)
  lb0 := Vector.replicate 65 none
  lb1 := Vector.replicate 65 none
  nLoad := 0
  nRender := 0
  clkRun := false
  xfer := none
  tcPend := false
  pulse := none
  pcPend := false
  oeN := 1
  latched := none
  dataLines := 0
  cmds := []
  displays := []
  fault := none
  refused := none
  fb := []
  inputs := []

end Sys2Proof.Machine
end

