-- ==== Sys2Proof/Machine/Flags.lean ====
section
/-! DEFINITION. The flags: the completion conditions `tc_pend` and `pc_pend` (R30; the core has no other), and the
output-enable line that follows `pulse` (R26). -/

namespace Sys2Proof.Machine

/-- `tc_pend <- true`: the transfer engine's completion (R103). -/
def raiseTransferDone (s : State) : State := { s with tcPend := true }

/-- `tc_pend <- false`: ACK_TRANSFER (R96). -/
def clearTransferDone (s : State) : State := { s with tcPend := false }

/-- `pc_pend <- true`: the pulse generator's completion (R104). -/
def raisePulseDone (s : State) : State := { s with pcPend := true }

/-- `pc_pend <- false`: ACK_PULSE (R97). -/
def clearPulseDone (s : State) : State := { s with pcPend := false }

/-- `pulse <- d; oe_n <- 0`: the active-low line is driven for the pulse (R100). -/
def beginPulse (d : Ticks) (s : State) : State := { s with pulse := some d, oeN := 0 }

/-- `pulse <- NONE; oe_n <- 1`: the end of the pulse (R104). -/
def endPulse (s : State) : State := { s with pulse := none, oeN := 1 }

end Sys2Proof.Machine
end

