-- ==== Sys2Proof/Machine/Operands.lean ====
section
/-! DEFINITION. The values that operands and registers are turned into before they index a memory or go into a command:
every operand is unsigned and zero-extended (R60), and every index formed is in range (R40). -/

namespace Sys2Proof.Machine

/-- The framebuffer row of plane `k` for row pair `r`: row `r` for R1, G1, B1 and row `r + 32` for R2, G2, B2 (R35, R71). -/
def planeRow (r : RowPair) (k : Fin 6) : Nat := if k.val < 3 then r.toNat else r.toNat + 32

/-- The framebuffer channel of plane `k`: 0 red, 1 green, 2 blue (R35, R37). -/
def planeChannel (k : Fin 6) : Nat := k.val % 3

/-- The key of the sample `FbRead(h, y, x, ch)` in the framebuffer memory: one number for each place
of the 4096 by 64 by 64 by 3 grid (R37; log entry 6). -/
def sampleKey (h : Handle) (y x ch : Nat) : Nat := ((h.toNat * 64 + y) * 64 + x) * 3 + ch

/-- The number of keys: one more than the largest. -/
def sampleCount : Nat := 4096 * 64 * 64 * 3

/-- The effective bit `e = min(p + skip, 10)`, with no wrap in the sum (R75). -/
def effectiveBit (p : Phase) (skip : BitVec 4) : Nat := min (p.toNat + skip.toNat) 10

/-- Bit `e` of a 10-bit entry; bit 10 reads as 0 (R74). -/
def driveBit (v : Drive) (e : Nat) : Bool := if e = 10 then false else v.getLsbD e

/-- `prev = (ph == 0) ? 9 : ph - 1` (R82). -/
def prevPhase (ph : Phase) : Phase := if ph = 0 then 9 else ph - 1

/-- The duration `BASE << prev` in ticks, in ARM_PULSE's 28-bit field (R63, R82). -/
def pulseTicks (base : Nat) (prev : Phase) : Ticks := BitVec.ofNat 28 (base <<< prev.toNat)

/-- The other bank, `1 - ab` (R84). -/
def otherBank (b : BankIx) : BankIx := 1 - b

end Sys2Proof.Machine
end

