-- ==== Sys2Proof/Machine/Memory.lean ====
section
/-! DEFINITION. The four storage spaces of R32: the Gamma LUT, the row cache, the line buffers and the framebuffer memory
behind the read port. -/

namespace Sys2Proof.Machine

/-! ### The Gamma LUT and its admission -/

/-- `GammaRead(i) = GAMMA(i)`, a 10-bit value (R34, R67). -/
def gammaRead (cfg : Config) (i : Sample) : Drive := BitVec.ofNat 10 (cfg.gamma[i.toNat]'i.isLt)

/-- Neighbours never fall (R67, monotonicity). -/
def nondecreasing : List Nat → Bool
  | [] => true
  | a :: rest =>
    match rest with
    | [] => true
    | b :: _ => decide (a ≤ b) && nondecreasing rest

/-- R67's two conditions on `GAMMA`: the range 0..1024 and monotonicity. -/
def gammaAdmitted (cfg : Config) : Bool :=
  cfg.gamma.toList.all (fun v => decide (v < 1024)) && nondecreasing cfg.gamma.toList

/-- R63's condition on `BASE`: not 0, and `BASE << 9` fits 28 bits. -/
def baseAdmitted (cfg : Config) : Bool := decide (0 < cfg.base ∧ cfg.base <<< 9 < 2 ^ 28)

/-- Why a configuration is refused as a whole, if it is (R111); `GAMMA` is looked at first (log entry 11). -/
def configRefusal (cfg : Config) : Option RefusalCode :=
  if gammaAdmitted cfg then (if baseAdmitted cfg then none else some .baseConfig) else some .gammaConfig

/-! ### The framebuffer memory -/

/-- The sample the memory lists under a key. -/
def Memory.find : Memory → Nat → Option Sample
  | [], _ => none
  | (k, v) :: rest, key => if k = key then some v else Memory.find rest key

/-- The sample under a key: the listed one, else a free value (log entry 6). -/
def Memory.read (m : Memory) (key : Nat) : Sample := (Memory.find m key).getD (Config.freeSample key)

/-- Put a sample under a key, in key order. -/
def Memory.write : Memory → Nat → Sample → Memory
  | [], key, v => [(key, v)]
  | (k, u) :: rest, key, v =>
    if key < k then (key, v) :: (k, u) :: rest
    else if key = k then (key, v) :: rest
    else (k, u) :: Memory.write rest key v

/-- Keys strictly rise from `lo` on and stay below the number of keys. -/
def Memory.risingFrom : Nat → Memory → Bool
  | _, [] => true
  | lo, (k, _) :: rest => decide (lo ≤ k ∧ k < sampleCount) && Memory.risingFrom (k + 1) rest

/-- The canonical form: keys strictly rising, each the key of a place of the framebuffer grid. -/
def Memory.wf (m : Memory) : Bool := Memory.risingFrom 0 m

/-- `FbRead(h, y, x, ch)` (R37). -/
def fbRead (m : Memory) (h : Handle) (y x ch : Nat) : Sample := Memory.read m (sampleKey h y x ch)

/-! ### The row cache -/

/-- What a load of row pair `r` from framebuffer `h` leaves in the row cache: all 384 entries (R71). -/
def loadedCache (cfg : Config) (m : Memory) (h : Handle) (r : RowPair) : RowCache :=
  Vector.ofFn fun c => Vector.ofFn fun k =>
    some (gammaRead cfg (fbRead m h (planeRow r k) c.val (planeChannel k)))

/-- The first entry with no value, columns outermost, as the loops of R74 meet it. -/
def firstUnwritten (rc : RowCache) : Option (Fin 64 × Fin 6) :=
  (List.finRange 64).findSome? fun c =>
    (List.finRange 6).findSome? fun k => if rc[c][k].isNone then some (c, k) else none

/-- `RC[c][k]`, for an entry that holds a value: `renderPhase` reads it only when `firstUnwritten` is `none`. -/
def rcValue (rc : RowCache) (c : Fin 64) (k : Fin 6) : Drive := rc[c][k].getD 0

/-! ### The line buffers -/

/-- `LB[b]` (R36). -/
def State.bank (s : State) (b : BankIx) : Bank := if b = 0 then s.lb0 else s.lb1

/-- `LB[b] <- bank`, all 65 bytes (R36). -/
def State.setBank (b : BankIx) (bank : Bank) (s : State) : State :=
  { s with lb0 := if b = 0 then bank else s.lb0, lb1 := if b = 0 then s.lb1 else bank }

/-- The first byte of a bank with no value, in index order. -/
def firstMissingByte (bank : Bank) : Option (Fin 65) :=
  (List.finRange 65).find? fun j => bank[j].isNone

/-- The 65 bytes of a bank, for one that holds them all: START_TRANSFER reads it only when `firstMissingByte` is `none`. -/
def bankBytes (bank : Bank) : Vector LineByte 65 := bank.map fun x => x.getD 0

/-- The plane bits of one column, OR-ed together as the inner loop of R74 does. -/
def planeBits (cfg : Config) (rc : RowCache) (e : Nat) (c : Fin 64) : LineByte :=
  (List.finRange 6).foldl
    (fun byte k => byte ||| (BitVec.ofBool (driveBit (rcValue rc c k) e)).zeroExtend 8 <<< (cfg.planeBit[k]).val) 0

/-- The column byte of column `c`: the plane bits, and the latch strobe on column 63 (R55, R56, R74). -/
def columnByte (cfg : Config) (rc : RowCache) (e : Nat) (c : Fin 64) : LineByte :=
  if c.val = 63 then planeBits cfg rc e c ||| 0x40 else planeBits cfg rc e c

/-- The bank that a render with effective bit `e` writes: 64 column bytes and the terminal byte 0 (R57, R74). -/
def renderedBank (cfg : Config) (rc : RowCache) (e : Nat) : Bank :=
  Vector.ofFn fun j => if h : j.val < 64 then some (columnByte cfg rc e ⟨j.val, h⟩) else some 0

end Sys2Proof.Machine
end

