-- ==== Sys2Proof/Machine/Ops.lean ====
section
/-! DEFINITION. The shared operations: raising a fault (R110), recording and applying a command (44_interfaces.md), the
row-cache load (R71) and the phase render (R74). An operation that may fault answers `.error`; the whole step
then has no effect but the fault mark. -/

namespace Sys2Proof.Machine

/-! ### Faults -/

/-- The numbers of the fault codes (R109). -/
def FaultRecord.code : FaultRecord → Nat
  | .doubleStart _ => 1
  | .eventOrder _ _ => 2
  | .noFramebuffer _ => 3
  | .unwritten _ _ => 4
  | .unwrittenByte _ _ => 4
  | .testAfterStart _ => 5
  | .collabBusy _ => 6

/-- Taking a fault (R110): the sticky register is set, and nothing else changes. Nothing is saved and
nothing returns from it (R115, R116). -/
def raiseFault (f : FaultRecord) (s : State) : State := { s with fault := some f }

/-- Taking a refusal (R111): the sticky mark is set, and nothing else changes. -/
def raiseRefusal (c : RefusalCode) (s : State) : State := { s with refused := some c }

/-- The step of an operation applied to `s`: its new state, or `s` with the fault mark (R110). -/
def commit (s : State) : Except FaultRecord State → Host.Outcome State Fault Refusal
  | .ok t => .next t
  | .error f => .next (raiseFault f s)

/-! ### Commands -/

/-- Append a command to the recorded list (R14). -/
def record (c : Command) (s : State) : State := { s with cmds := s.cmds ++ [encodeCommand c] }

/-- `rowaddr <- r` (R98). -/
def setRowaddr (r : RowPair) (s : State) : State := { s with rowaddr := r }

/-- `clk_run <- b` (R101). -/
def setClock (b : Bool) (s : State) : State := { s with clkRun := b }

/-- `xfer <- x` (R99, R103). -/
def setTransfer (x : Option Transfer) (s : State) : State := { s with xfer := x }

/-- `record Display(rowaddr, latched, d)` (R100). -/
def recordDisplay (d : Ticks) (s : State) : State := { s with displays := s.displays ++ [⟨s.rowaddr, s.latched, d⟩] }

/-- ARM_PULSE(d)'s effect (R100). -/
def armPulse (d : Ticks) (s : State) : Except FaultRecord State :=
  match s.pulse with
  | some _ => .error (.collabBusy (encodeCommand (.armPulse d)))
  | none => .ok (recordDisplay d (beginPulse d s))

/-- START_TRANSFER(b, 65)'s effect (R99): a snapshot of the bank; a byte with no value faults (R28). -/
def startTransfer (b : BankIx) (s : State) : Except FaultRecord State :=
  match s.xfer with
  | some _ => .error (.collabBusy (encodeCommand (.startTransfer b)))
  | none =>
    match firstMissingByte (s.bank b) with
    | some j => .error (.unwrittenByte b j)
    | none => .ok (setTransfer (some ⟨b, bankBytes (s.bank b), 0⟩) s)

/-- The effect of a command on the collaborators (R96 to R102). -/
def applyCommand (c : Command) (s : State) : Except FaultRecord State :=
  match c with
  | .ackTransfer => .ok (clearTransferDone s)
  | .ackPulse => .ok (clearPulseDone s)
  | .armPulse d => armPulse d s
  | .stopClock => .ok (setClock false s)
  | .startClock => .ok (setClock true s)
  | .startTransfer b => startTransfer b s
  | .setRow r => .ok (setRowaddr r s)
  | .gammaResult _ => .ok s

/-- A command reaches its collaborator: it is recorded and takes effect (log entry 4). -/
def deliver (c : Command) (s : State) : Except FaultRecord State := applyCommand c (record c s)

/-- In open use a command is only recorded, but for `rowaddr`, which is the core's own register (R16, R25; log entry 3). -/
def openEffect (c : Command) (s : State) : State :=
  match c with
  | .ackTransfer => s
  | .ackPulse => s
  | .armPulse _ => s
  | .stopClock => s
  | .startClock => s
  | .startTransfer _ => s
  | .setRow r => setRowaddr r s
  | .gammaResult _ => s

/-- `emit CMD(args)` by the core (R14), in open or in closed use (D16). -/
def emit (c : Command) (s : State) : Except FaultRecord State :=
  match s.cfg.use with
  | .openUse => .ok (openEffect c (record c s))
  | .closedUse => deliver c s

/-! ### The row-cache load and the phase render -/

/-- `fbframe` after a load of row pair `r` (R71). -/
def latchedFrame (r : RowPair) (s : State) : Option Handle :=
  if s.cfg.fbLatchAtFrame ∧ r = 0 then s.fbref else s.fbframe

/-- The handle a load of row pair `r` reads (R71). -/
def loadHandle (r : RowPair) (s : State) : Option Handle :=
  if s.cfg.fbLatchAtFrame then latchedFrame r s else s.fbref

/-- What a load of row pair `r` from framebuffer `h` writes (R71). -/
def storeLoad (r : RowPair) (h : Handle) (s : State) : State :=
  { s with fbframe := latchedFrame r s, rc := loadedCache s.cfg s.fb h r, nLoad := s.nLoad + 1 }

/-- `LoadRowCache(r)` (R71). -/
def loadRowCache (r : RowPair) (s : State) : Except FaultRecord State :=
  match loadHandle r s with
  | none => .error (.noFramebuffer r)
  | some h => .ok (storeLoad r h s)

/-- `n_render <- n_render + 1` (R29). -/
def countRender (s : State) : State := { s with nRender := s.nRender + 1 }

/-- What a render of phase `p` into bank `b` writes (R74). -/
def storeRender (p : Phase) (b : BankIx) (s : State) : State :=
  countRender (s.setBank b (renderedBank s.cfg s.rc (effectiveBit p s.skip)))

/-- `RenderPhase(p, b)` (R74). -/
def renderPhase (p : Phase) (b : BankIx) (s : State) : Except FaultRecord State :=
  match firstUnwritten s.rc with
  | some (c, k) => .error (.unwritten c k)
  | none => .ok (storeRender p b s)

/-! ### The control state (R23) -/

/-- `proto <- x` (R24). -/
def setProto (x : Proto) (s : State) : State := { s with proto := x }

/-- `rp <- x` (R17). -/
def setRowPair (x : RowPair) (s : State) : State := { s with rp := x }

/-- `ph <- x` (R18). -/
def setPhase (x : Phase) (s : State) : State := { s with ph := x }

/-- `ab <- x` (R19). -/
def setActive (x : BankIx) (s : State) : State := { s with ab := x }

end Sys2Proof.Machine
end

