-- ==== Sys2Proof/Machine/Commands.lean ====
section
/-! DEFINITION. The commands as instructions of their own (R96 to R102): each is recorded and takes its effect on its
collaborator, whatever the use (log entry 4). -/

namespace Sys2Proof.Machine

/-- ACK_TRANSFER (R96). -/
def execAckTransfer (s : State) : Host.Outcome State Fault Refusal := commit s (deliver .ackTransfer s)

/-- ACK_PULSE (R97). -/
def execAckPulse (s : State) : Host.Outcome State Fault Refusal := commit s (deliver .ackPulse s)

/-- ARM_PULSE d (R100). -/
def execArmPulse (d : Ticks) (s : State) : Host.Outcome State Fault Refusal := commit s (deliver (.armPulse d) s)

/-- STOP_CLOCK (R101). -/
def execStopClock (s : State) : Host.Outcome State Fault Refusal := commit s (deliver .stopClock s)

/-- START_CLOCK (R101). -/
def execStartClock (s : State) : Host.Outcome State Fault Refusal := commit s (deliver .startClock s)

/-- START_TRANSFER b, 65 (R99). -/
def execStartTransfer (b : BankIx) (s : State) : Host.Outcome State Fault Refusal := commit s (deliver (.startTransfer b) s)

/-- SET_ROW r (R98). -/
def execSetRow (r : RowPair) (s : State) : Host.Outcome State Fault Refusal := commit s (deliver (.setRow r) s)

/-- GAMMA_RESULT v (R102). -/
def execGammaResult (v : Drive) (s : State) : Host.Outcome State Fault Refusal := commit s (deliver (.gammaResult v) s)

end Sys2Proof.Machine
end

