-- ==== Sys2Proof/Machine/HostWrites.lean ====
section
/-! DEFINITION. The host's two writes (43_host_writes.md), accepted in every protocol state. -/

namespace Sys2Proof.Machine

/-- SET_BRIGHTNESS_SKIP n (R91). -/
def execSetBrightnessSkip (n : BitVec 4) (s : State) : Host.Outcome State Fault Refusal := .next { s with skip := n }

/-- SET_FRAMEBUFFER h (R93). -/
def execSetFramebuffer (h : Handle) (s : State) : Host.Outcome State Fault Refusal := .next { s with fbref := some h }

end Sys2Proof.Machine
end

