-- ==== Sys2Proof/Machine/Scheduler.lean ====
section
/-! DEFINITION. The transfer scheduler: START, TRANSFER_COMPLETE and PULSE_COMPLETE (42_scheduler.md). -/

namespace Sys2Proof.Machine

/-- The body of START after its protocol check (R80). -/
def primePipeline (s : State) : Except FaultRecord State := do
  let s ← loadRowCache 0 (setActive 0 (setPhase 0 (setRowPair 0 s)))
  let s ← renderPhase 0 0 s
  let s ← emit (.startTransfer 0) s
  let s ← emit .startClock s
  let s ← renderPhase 1 1 (setActive 1 s)
  .ok (setProto .awaitTC s)

/-- START (R80). -/
def execStart (s : State) : Host.Outcome State Fault Refusal :=
  commit s (if s.proto = .idle then primePipeline s else .error (.doubleStart (encode .start)))

/-- The deferred-reload branch of TRANSFER_COMPLETE (R81). `ph` is 9 only inside the branch, where nothing
reads it, and 0 after it (R83). -/
def deferredReload (s : State) : Except FaultRecord State := do
  let s ← loadRowCache (s.rp + 1) (setRowPair (s.rp + 1) (setPhase 9 s))
  renderPhase 0 s.ab (setPhase 0 s)

/-- The last action of TRANSFER_COMPLETE (R81): `ph = 0` is the pending-reload mark (R83). -/
def reloadIfPending (s : State) : Except FaultRecord State :=
  if s.ph = 0 then deferredReload s else .ok s

/-- The body of TRANSFER_COMPLETE after its protocol check (R81). -/
def transferDone (s : State) : Except FaultRecord State := do
  let s ← emit .ackTransfer s
  let s ← emit (.armPulse (pulseTicks s.cfg.base (prevPhase s.ph))) s
  let s ← emit .stopClock s
  let s ← reloadIfPending s
  .ok (setProto .awaitPC s)

/-- TRANSFER_COMPLETE (R81). -/
def execTransferComplete (s : State) : Host.Outcome State Fault Refusal :=
  commit s (if s.proto = .awaitTC then transferDone s else .error (.eventOrder (encode .transferComplete) s.proto))

/-- The phase advance of PULSE_COMPLETE, after the flip of `ab` (R84). -/
def advancePhase (s : State) : Except FaultRecord State :=
  if s.ph < 9 then renderPhase (s.ph + 1) s.ab (setPhase (s.ph + 1) s) else .ok (setPhase 0 s)

/-- The body of PULSE_COMPLETE after its protocol check (R84). -/
def pulseDone (s : State) : Except FaultRecord State := do
  let s ← emit .ackPulse s
  let s ← emit (.setRow s.rp) s
  let s ← emit (.startTransfer s.ab) s
  let s ← emit .startClock s
  let s ← advancePhase (setActive (otherBank s.ab) s)
  .ok (setProto .awaitTC s)

/-- PULSE_COMPLETE (R84). -/
def execPulseComplete (s : State) : Host.Outcome State Fault Refusal :=
  commit s (if s.proto = .awaitPC then pulseDone s else .error (.eventOrder (encode .pulseComplete) s.proto))

end Sys2Proof.Machine
end

