-- ==== Sys2Proof/Machine/TestPort.lean ====
section
/-! DEFINITION. The test port, usable only before START (R122): T_GAMMA, T_LOAD, T_RENDER. -/

namespace Sys2Proof.Machine

/-- The gate of the test port (R109): the operation, or TEST_AFTER_START with its word. -/
def testPort (i : Instr) (body : State → Except FaultRecord State) (s : State) : Host.Outcome State Fault Refusal :=
  commit s (if s.proto = .idle then body s else .error (.testAfterStart (encode i)))

/-- T_GAMMA i (R70). -/
def execTGamma (i : Sample) (s : State) : Host.Outcome State Fault Refusal :=
  testPort (.tGamma i) (fun s => emit (.gammaResult (gammaRead s.cfg i)) s) s

/-- T_LOAD r (R73). -/
def execTLoad (r : RowPair) (s : State) : Host.Outcome State Fault Refusal :=
  testPort (.tLoad r) (loadRowCache r) s

/-- T_RENDER p, b (R79). -/
def execTRender (p : Phase) (b : BankIx) (s : State) : Host.Outcome State Fault Refusal :=
  testPort (.tRender p b) (renderPhase p b) s

end Sys2Proof.Machine
end

