-- ==== Sys2Proof/Machine/Dispatch.lean ====
section
/-! DEFINITION. One arm per instruction. -/

namespace Sys2Proof.Machine

def exec (i : Instr) (s : State) : Host.Outcome State Fault Refusal :=
  match i with
  | .start => Sys2Proof.Machine.execStart s
  | .transferComplete => Sys2Proof.Machine.execTransferComplete s
  | .pulseComplete => Sys2Proof.Machine.execPulseComplete s
  | .setBrightnessSkip n => Sys2Proof.Machine.execSetBrightnessSkip n s
  | .setFramebuffer h => Sys2Proof.Machine.execSetFramebuffer h s
  | .tGamma idx => Sys2Proof.Machine.execTGamma idx s
  | .tLoad r => Sys2Proof.Machine.execTLoad r s
  | .tRender p b => Sys2Proof.Machine.execTRender p b s
  | .ackTransfer => Sys2Proof.Machine.execAckTransfer s
  | .ackPulse => Sys2Proof.Machine.execAckPulse s
  | .armPulse d => Sys2Proof.Machine.execArmPulse d s
  | .stopClock => Sys2Proof.Machine.execStopClock s
  | .startClock => Sys2Proof.Machine.execStartClock s
  | .startTransfer b => Sys2Proof.Machine.execStartTransfer b s
  | .setRow r => Sys2Proof.Machine.execSetRow r s
  | .gammaResult v => Sys2Proof.Machine.execGammaResult v s

end Sys2Proof.Machine
end

