-- ==== Sys2Proof/Machine/Agents.lean ====
section
/-! DEFINITION. The steps of the environment: the collaborators of closed use (R103, R104), which agent is enabled
(R103 to R105), and the host's writes to framebuffers that are not installed (R52). -/

namespace Sys2Proof.Machine

/-- The latch: a byte with bit 6 set commits the transfer's 64 column bytes (R103, D31). -/
def latchOn (t : Transfer) (b : LineByte) (old : Option (Vector LineByte 64)) : Option (Vector LineByte 64) :=
  if b.getLsbD 6 then some (t.data.take 64) else old

/-- The transfer moves on by one byte: it goes on, or ends and raises its completion condition (R103). -/
def advanceTransfer (t : Transfer) (s : State) : State :=
  if t.sent + 1 = 65 then raiseTransferDone { s with xfer := none }
  else { s with xfer := some { t with sent := t.sent + 1 } }

/-- The transfer engine's byte step (R103), for a transfer that has a byte left. -/
def byteStep (s : State) : State :=
  match s.xfer with
  | none => s
  | some t =>
    if h : t.sent < 65 then
      advanceTransfer t { s with dataLines := t.data[t.sent], latched := latchOn t t.data[t.sent] s.latched }
    else s

/-- The pulse generator's step: the end of the pulse (R104). -/
def pulseEndStep (s : State) : State := raisePulseDone (endPulse s)

/-- When a byte step is enabled (R103). -/
def transferHasByte (s : State) : Bool :=
  match s.xfer with
  | none => false
  | some t => s.clkRun && decide (t.sent < 65)

/-- When an agent is enabled (R103 to R105): in closed use only. -/
def enabled (s : State) (a : Agent) : Bool :=
  decide (s.cfg.use = .closedUse) &&
    (match a with
     | .transferByte => transferHasByte s
     | .pulseEnd => s.pulse.isSome
     | .transferEvent => s.tcPend
     | .pulseEvent => s.pcPend)

/-- The agent that moves when the environment has scheduled nothing: the enabled one (R106). In the states that
closed use reaches there is at most one (R107); the order for other states is log entry 5. -/
def nextAgent (s : State) : Option Agent :=
  [Agent.transferEvent, .pulseEvent, .transferByte, .pulseEnd].find? (enabled s)

/-- A framebuffer that the host must not change: installed in `fbref`, or in `fbframe` where a load may read that (R52). -/
def installed (s : State) (h : Handle) : Bool :=
  decide (s.fbref = some h) || (s.cfg.fbLatchAtFrame && decide (s.fbframe = some h))

/-- The host writes one sample of a framebuffer (R37, R52). -/
def hostSampleStep (h : Handle) (y x : BitVec 6) (ch : Fin 3) (v : Sample) (s : State) : Host.Outcome State Fault Refusal :=
  if installed s h then .refused (.installedFramebufferChanged h)
  else .next { s with fb := Memory.write s.fb (sampleKey h y.toNat x.toNat ch.val) v }

end Sys2Proof.Machine
end

