-- ==== Sys2Proof/Machine/Fetch.lean ====
section
/-! DEFINITION. What a step does before and around `exec`: the sticky marks (R110, R111), the configuration check (R111),
the next entry of the schedule, and decoding (R61, R112: a refused word is reported before any protocol check). -/

namespace Sys2Proof.Machine

/-- What the next step is: an instruction to run in a state, or an outcome that needs no instruction. -/
inductive Fetch where
  | run (i : Instr) (s : State)
  | answer (o : Host.Outcome State Fault Refusal)
  deriving Repr

/-- A word of the schedule: decoded and run, or refused (R61, R111). `s` is the state after the word is taken. -/
def fetchWord (w : PortWord) (s : State) : Fetch :=
  match decode w with
  | .ok i => .run i s
  | .error (.refused c) => .answer (.next (raiseRefusal c s))
  | .error (.neverEmitted w) => .answer (.refused (.neverEmitted w))

/-- An agent's step. The two events are the scheduler's operations (R105). -/
def agentStep (a : Agent) (s : State) : Fetch :=
  match a with
  | .transferByte => .answer (.next (byteStep s))
  | .pulseEnd => .answer (.next (pulseEndStep s))
  | .transferEvent => .run .transferComplete s
  | .pulseEvent => .run .pulseComplete s

/-- An agent's entry of the schedule: its step if it is enabled, else nothing (log entry 5). -/
def fetchAgent (a : Agent) (s : State) : Fetch := if enabled s a then agentStep a s else .answer (.next s)

/-- The schedule is empty: the enabled agent moves; with none enabled the core waits (R123, R125). -/
def fetchIdle (s : State) : Fetch :=
  match nextAgent s with
  | some a => agentStep a s
  | none => .answer (.next s)

/-- The next entry of the schedule. -/
def fetchInput (s : State) : Fetch :=
  match s.inputs with
  | [] => fetchIdle s
  | .word w :: rest => fetchWord w { s with inputs := rest }
  | .agent a :: rest => fetchAgent a { s with inputs := rest }
  | .hostSample h y x ch v :: rest => .answer (hostSampleStep h y x ch v { s with inputs := rest })

/-- The next step: none once a mark is set (R110, R111); a configuration that is not admitted is refused
before anything else (R111). -/
def fetch (s : State) : Fetch :=
  match s.fault with
  | some f => .answer (.fault (.stopped f))
  | none =>
    match s.refused with
    | some c => .answer (.refused (.stopped c))
    | none =>
      match configRefusal s.cfg with
      | some c => .answer (.next (raiseRefusal c s))
      | none => fetchInput s

end Sys2Proof.Machine
end

