-- ==== Sys2Proof/Machine/Step.lean ====
section
/-! DEFINITION. One step of the machine. -/

namespace Sys2Proof.Machine

/-- Run what was fetched, if it is an instruction. -/
def runFetch (f : Fetch) : Host.Outcome State Fault Refusal :=
  match f with
  | .run i t => exec i t
  | .answer o => o

/-- One step: what is fetched next (Machine/Fetch.lean), run. -/
def step (s : State) : Host.Outcome State Fault Refusal := runFetch (fetch s)

/-- `s` with a table row's word as the next entry of the schedule (log entry 5). -/
def State.withFetchWord (s : State) (nbits w : Nat) : State :=
  { s with inputs := .word (tablePortWord nbits w) :: s.inputs }

end Sys2Proof.Machine
end

