-- ==== Sys2Proof/Machine/Script.lean ====
section
/-! DEFINITION. Operation scripts: the assembler syntax of R65 and the pseudo-operations of R66, as lists of operation words, and
how a script is given to the machine. A line is a list of characters. -/

namespace Sys2Proof.Machine

/-! ### Pseudo-operations (R66) -/

/-- `CYCLE k`: TC then PC, k times. -/
def cycleWords : Nat → List PortWord
  | 0 => []
  | k + 1 => .op 0x2000 :: .op 0x3000 :: cycleWords k

/-- `DWELL`: `CYCLE 10`. -/
def dwellWords : List PortWord := cycleWords 10

/-- `FRAME`: `CYCLE 320`. -/
def frameWords : List PortWord := cycleWords 320

/-! ### The text of a line (R65) -/

/-- A blank of a line. -/
def isBlank (c : Char) : Bool := c == ' ' || c == '\t'

/-- A text without the blanks at its ends. -/
def trimBlanks (cs : List Char) : List Char :=
  ((cs.dropWhile isBlank).reverse.dropWhile isBlank).reverse

/-- The parts of a text between its commas. -/
def splitCommas : List Char → List (List Char)
  | [] => [[]]
  | c :: cs =>
    if c == ',' then [] :: splitCommas cs
    else
      match splitCommas cs with
      | [] => [[c]]
      | w :: ws => (c :: w) :: ws

/-- The value of a digit in a base up to 16. -/
def digitValue (base : Nat) (c : Char) : Option Nat :=
  let v :=
    if '0'.toNat ≤ c.toNat ∧ c.toNat ≤ '9'.toNat then c.toNat - '0'.toNat
    else if 'a'.toNat ≤ c.toNat ∧ c.toNat ≤ 'f'.toNat then c.toNat - 'a'.toNat + 10
    else if 'A'.toNat ≤ c.toNat ∧ c.toNat ≤ 'F'.toNat then c.toNat - 'A'.toNat + 10
    else base
  if v < base then some v else none

/-- The value of a run of digits, after the value `acc` of the digits before it. -/
def digitsValue (base : Nat) : Nat → List Char → Option Nat
  | acc, [] => some acc
  | acc, c :: cs =>
    match digitValue base c with
    | some d => digitsValue base (acc * base + d) cs
    | none => none

/-- A number: decimal, or hexadecimal after `0x` (R65). -/
def numberOf (cs : List Char) : Option Nat :=
  match cs with
  | [] => none
  | '0' :: 'x' :: d :: ds => digitsValue 16 0 (d :: ds)
  | c :: ds => digitsValue 10 0 (c :: ds)

/-- The operand numbers of a text; none for a blank text. -/
def operandsOf (cs : List Char) : Option (List Nat) :=
  if trimBlanks cs = [] then some [] else (splitCommas cs).mapM fun p => numberOf (trimBlanks p)

/-- The operation word `base | v` for an operand of `width` bits (R65). -/
def wordWith (base v width : Nat) : Option (List PortWord) :=
  if v < 2 ^ width then some [.op (BitVec.ofNat 16 (base ||| v))] else none

/-- The words of a mnemonic with its operands (R65, R66). -/
def wordsOf (m : List Char) (operands : List Nat) : Option (List PortWord) :=
  match m, operands with
  | ['S', 'T', 'A', 'R', 'T'], [] => some [.op 0x1000]
  | ['T', 'C'], [] => some [.op 0x2000]
  | ['P', 'C'], [] => some [.op 0x3000]
  | ['S', 'K', 'I', 'P'], [n] => wordWith 0x4000 n 4
  | ['F', 'B'], [h] => wordWith 0x5000 h 12
  | ['T', '.', 'G', 'A', 'M', 'M', 'A'], [i] => wordWith 0x8000 i 8
  | ['T', '.', 'L', 'O', 'A', 'D'], [r] => wordWith 0x9000 r 5
  | ['T', '.', 'R', 'E', 'N', 'D', 'E', 'R'], [p, b] =>
    if b < 2 then wordWith (0xA000 ||| (b <<< 4)) p 4 else none
  | ['C', 'Y', 'C', 'L', 'E'], [] => some (cycleWords 1)
  | ['C', 'Y', 'C', 'L', 'E'], [k] => some (cycleWords k)
  | ['D', 'W', 'E', 'L', 'L'], [] => some dwellWords
  | ['F', 'R', 'A', 'M', 'E'], [] => some frameWords
  | _, _ => none

/-- The words of one line: what stands before `;`, a mnemonic and its operands; a blank line has none (R65). -/
def assembleLine (line : List Char) : Option (List PortWord) :=
  let text := trimBlanks (line.takeWhile (fun c => !(c == ';')))
  if text = [] then some []
  else
    match operandsOf (text.dropWhile (fun c => !isBlank c)) with
    | some operands => wordsOf (text.takeWhile (fun c => !isBlank c)) operands
    | none => none

/-- A script is given to the machine: its words, after what is already scheduled (log entry 5). -/
def State.withScript (s : State) (ws : List PortWord) : State :=
  { s with inputs := s.inputs ++ ws.map Input.word }

end Sys2Proof.Machine
end

