-- ==== Sys2Proof/Safety.lean ====
section
/-! DEFINITION. The terms that claims are stated in: when a step is enabled, what a full memory is, the invariants of
R18, R20, R26, R31 and R107, and each instruction's fault and effect on the core as R109, R112 and R22 tell them. -/

namespace Sys2Proof.Machine

/-- No sticky mark is set and the configuration is admitted: a step is enabled (R110, R111). -/
abbrev State.ready (s : State) : Prop :=
  s.fault = none ∧ s.refused = none ∧ configRefusal s.cfg = none

/-- Every entry of a row cache holds a value (R28). -/
abbrev CacheFull (rc : RowCache) : Prop := ∀ (c : Fin 64) (k : Fin 6), rc[c][k] ≠ none

/-- Every byte of a bank holds a value (R28). -/
abbrev BankFull (bank : Bank) : Prop := ∀ j : Fin 65, bank[j] ≠ none

/-- `PLANE_BIT` is an injective map from planes to bits (D4). -/
abbrev PlanesApart (cfg : Config) : Prop :=
  ∀ i j : Fin 6, cfg.planeBit[i] = cfg.planeBit[j] → i = j

/-- The legal values of R18, R20 and R26, and the canonical form of the framebuffer memory. -/
abbrev State.inRange (s : State) : Prop :=
  s.ph.toNat < 10 ∧ s.skip.toNat ≤ 10 ∧ (∀ t ∈ s.xfer, t.sent < 65) ∧
    s.oeN = (if s.pulse.isSome then 0 else 1) ∧ Memory.wf s.fb = true

/-- R31 items 2 to 4: after START the row cache holds the load of row pair `rp` from framebuffer `h`, and the bank that
the next PULSE_COMPLETE sends holds the render of phase `ph` made with skip `k`. Where `proto` is `AwaitTC` and `ph` is 0
the reload is pending. -/
def State.renderedAhead (s : State) (h : Handle) (k : BitVec 4) : Prop :=
  s.proto ≠ .idle →
    s.rc = loadedCache s.cfg s.fb h s.rp ∧
    (s.proto = .awaitPC ∨ s.ph ≠ 0 → s.bank s.ab = renderedBank s.cfg s.rc (effectiveBit s.ph k))

/-- The step is not one in which the host writes a sample of framebuffer `h`. -/
def State.leavesAlone (s : State) (h : Handle) : Prop :=
  ∀ y x ch v rest, s.inputs ≠ .hostSample h y x ch v :: rest

/-- The transfer in progress sends bank `1 - ab`, which still holds the snapshot (R31 item 5, R46). -/
def State.sendsOtherBank (s : State) (t : Transfer) : Prop :=
  t.bank = otherBank s.ab ∧ s.bank t.bank = t.data.map some

/-- R107, for one protocol state: which collaborator is busy, and which completion is pending. -/
def State.collaboratorsFollow (s : State) : Prop :=
  match s.proto with
  | .idle => s.xfer = none ∧ s.tcPend = false ∧ s.pulse = none ∧ s.pcPend = false
  | .awaitTC =>
    s.pulse = none ∧ s.pcPend = false ∧
      ((s.xfer = none ∧ s.tcPend = true) ∨
        (∃ t, s.xfer = some t ∧ t.sent < 65 ∧ s.tcPend = false ∧ s.clkRun = true ∧ s.sendsOtherBank t))
  | .awaitPC =>
    s.xfer = none ∧ s.tcPend = false ∧
      ((s.pulse = none ∧ s.pcPend = true) ∨ (s.pulse ≠ none ∧ s.pcPend = false))

/-- After START everything that a later step reads has been written (R28, R81). -/
def State.primed (s : State) : Prop :=
  s.proto ≠ .idle →
    CacheFull s.rc ∧ BankFull s.lb0 ∧ BankFull s.lb1 ∧ s.fbref ≠ none ∧ (s.cfg.fbLatchAtFrame = true → s.fbframe ≠ none)

/-- The fault register holds neither EVENT_ORDER nor COLLAB_BUSY (R107). -/
def State.noOrderFault (s : State) : Prop := ∀ f, s.fault = some f → f.code ≠ 2 ∧ f.code ≠ 6

/-- Closed use, in order (R107). -/
def State.closedInOrder (s : State) : Prop :=
  s.cfg.use = .closedUse ∧ s.collaboratorsFollow ∧ s.primed ∧ s.noOrderFault

/-- The delivery rule of R105: the schedule's next entry is not a scheduler event given as a word, and not a
command word; the two events come only from the collaborators. -/
def State.delivered (s : State) : Prop :=
  ∀ w rest, s.inputs = .word w :: rest → w ≠ .op 0x2000 ∧ w ≠ .op 0x3000 ∧ ∀ c, w ≠ .cmd c

/-- A bank as a transfer sends it, with the latch bit on byte 63 only (R56). -/
def latchOnLastColumn (data : Vector LineByte 65) : Prop :=
  ∀ j : Fin 65, data[j].getLsbD 6 = decide (j.val = 63)

/-! ### Which fault an instruction meets, and what it does to the core otherwise -/

/-- A transfer that START_TRANSFER `b` cannot start in `s`: one is in progress, or a byte holds no value (R99, R28). -/
def State.transferFault (s : State) (b : BankIx) : Option FaultRecord :=
  if s.xfer ≠ none then some (.collabBusy (encodeCommand (.startTransfer b)))
  else (firstMissingByte (s.bank b)).map (.unwrittenByte b)

/-- A pulse that ARM_PULSE `d` cannot start in `s`: one is in progress (R100). -/
def State.pulseFault (s : State) (d : Ticks) : Option FaultRecord :=
  if s.pulse ≠ none then some (.collabBusy (encodeCommand (.armPulse d))) else none

/-- A load of row pair `r` with no handle to read (R71). -/
def State.loadFault (s : State) (r : RowPair) : Option FaultRecord :=
  if loadHandle r s = none then some (.noFramebuffer r) else none

/-- A render that reads an entry with no value (R74, R28). -/
def State.renderFault (s : State) : Option FaultRecord :=
  (firstUnwritten s.rc).map fun e => .unwritten e.1 e.2

/-- A fault that only closed use can meet (R109, code 6). -/
def State.closedOnly (s : State) (f : Option FaultRecord) : Option FaultRecord :=
  if s.cfg.use = .closedUse then f else none

/-- The table of R109 in the order of R112: the fault, if any, that an instruction meets in a state. -/
def faultIn (i : Instr) (s : State) : Option FaultRecord :=
  match i with
  | .start =>
    if s.proto ≠ .idle then some (.doubleStart (encode i))
    else (s.loadFault 0).or (s.closedOnly (if s.xfer ≠ none then some (.collabBusy 0x60000041) else none))
  | .transferComplete =>
    if s.proto ≠ .awaitTC then some (.eventOrder (encode i) s.proto)
    else (s.closedOnly (s.pulseFault (pulseTicks s.cfg.base (prevPhase s.ph)))).or
      (if s.ph = 0 then s.loadFault (s.rp + 1) else none)
  | .pulseComplete =>
    if s.proto ≠ .awaitPC then some (.eventOrder (encode i) s.proto)
    else (s.closedOnly (s.transferFault s.ab)).or (if s.ph < 9 then s.renderFault else none)
  | .setBrightnessSkip _ => none
  | .setFramebuffer _ => none
  | .tGamma _ => if s.proto ≠ .idle then some (.testAfterStart (encode i)) else none
  | .tLoad r => if s.proto ≠ .idle then some (.testAfterStart (encode i)) else s.loadFault r
  | .tRender _ _ => if s.proto ≠ .idle then some (.testAfterStart (encode i)) else s.renderFault
  | .ackTransfer => none
  | .ackPulse => none
  | .armPulse d => s.pulseFault d
  | .stopClock => none
  | .startClock => none
  | .startTransfer b => s.transferFault b
  | .setRow _ => none
  | .gammaResult _ => none

/-- What an instruction does to the core's registers (R22), the commands it emits in order (R14), and how many loads and
renders it makes (R29). -/
structure CoreEffect where
  proto : Proto
  rp : RowPair
  ph : Phase
  ab : BankIx
  skip : BitVec 4
  fbref : Option Handle
  rowaddr : RowPair
  commands : List Command
  loads : Nat
  renders : Nat
  deriving DecidableEq, Repr

/-- Every register kept, the commands `cs` emitted, no load and no render. -/
def State.keeps (s : State) (cs : List Command) : CoreEffect :=
  ⟨s.proto, s.rp, s.ph, s.ab, s.skip, s.fbref, s.rowaddr, cs, 0, 0⟩

/-- The effect of an instruction that meets no fault (R70, R73, R79 to R84, R91, R93, R96 to R102). -/
def effectIn (i : Instr) (s : State) : CoreEffect :=
  match i with
  | .start =>
    { s.keeps [.startTransfer 0, .startClock] with
      proto := .awaitTC, rp := 0, ph := 0, ab := 1, loads := 1, renders := 2 }
  | .transferComplete =>
    { s.keeps [.ackTransfer, .armPulse (pulseTicks s.cfg.base (prevPhase s.ph)), .stopClock] with
      proto := .awaitPC
      rp := if s.ph = 0 then s.rp + 1 else s.rp
      loads := if s.ph = 0 then 1 else 0
      renders := if s.ph = 0 then 1 else 0 }
  | .pulseComplete =>
    { s.keeps [.ackPulse, .setRow s.rp, .startTransfer s.ab, .startClock] with
      proto := .awaitTC
      ab := otherBank s.ab
      rowaddr := s.rp
      ph := if s.ph < 9 then s.ph + 1 else 0
      renders := if s.ph < 9 then 1 else 0 }
  | .setBrightnessSkip n => { s.keeps [] with skip := n }
  | .setFramebuffer h => { s.keeps [] with fbref := some h }
  | .tGamma i => s.keeps [.gammaResult (gammaRead s.cfg i)]
  | .tLoad _ => { s.keeps [] with loads := 1 }
  | .tRender _ _ => { s.keeps [] with renders := 1 }
  | .ackTransfer => s.keeps [.ackTransfer]
  | .ackPulse => s.keeps [.ackPulse]
  | .armPulse d => s.keeps [.armPulse d]
  | .stopClock => s.keeps [.stopClock]
  | .startClock => s.keeps [.startClock]
  | .startTransfer b => s.keeps [.startTransfer b]
  | .setRow r => { s.keeps [.setRow r] with rowaddr := r }
  | .gammaResult v => s.keeps [.gammaResult v]

/-- `t` is `s` after the effect `e`, in what `e` speaks of, with both marks as before. -/
def CoreEffect.leads (e : CoreEffect) (s t : State) : Prop :=
  t.proto = e.proto ∧ t.rp = e.rp ∧ t.ph = e.ph ∧ t.ab = e.ab ∧ t.skip = e.skip ∧ t.fbref = e.fbref ∧
    t.rowaddr = e.rowaddr ∧ t.cmds = s.cmds ++ e.commands.map encodeCommand ∧
    t.nLoad = s.nLoad + e.loads ∧ t.nRender = s.nRender + e.renders ∧ t.fault = s.fault ∧ t.refused = s.refused

end Sys2Proof.Machine
end

