-- ==== Sys2Proof/Certificates/Slice0/Obligations.lean ====
section
/-! DEFINITION. The statements about the model, each from the spec's rules. A statement about every state is also one about every
configuration (`cfg`), every framebuffer memory (`fb`) and every schedule (`inputs`), since the state carries them. -/

open Sys2Proof Sys2Proof.Machine

/-! ### Encoding -/

/-- R59 to R64: a well-formed instruction is what the decoder reads from its word. -/
def Obligations.DecodeOfEncodeIsTheInstruction : Prop :=
  ∀ i : Instr, i.wellFormed = true → decode (encode i) = .ok i

/-- R59 to R64: every word has at most one meaning, and no bit of it is dropped. -/
def Obligations.EncodeOfDecodeIsTheWord : Prop :=
  ∀ (w : PortWord) (i : Instr), decode w = .ok i → i.wellFormed = true ∧ encode i = w

/-- Words written out from R59, R62 and V-ENC-1. -/
def Obligations.WordsOfTheTablesDecode : Prop :=
  decode (.op 0x1000) = .ok .start ∧ decode (.op 0x3000) = .ok .pulseComplete ∧
  decode (.op 0x400A) = .ok (.setBrightnessSkip 10) ∧ decode (.op 0x5FFF) = .ok (.setFramebuffer 4095) ∧
  decode (.op 0x80FF) = .ok (.tGamma 255) ∧ decode (.op 0xA019) = .ok (.tRender 9 1) ∧
  decode (.op 0x400B) = .error (.refused .skipRange) ∧ decode (.op 0xA00A) = .error (.refused .phaseRange) ∧
  decode (.op 0x9020) = .error (.refused .nonzeroReservedBits) ∧ decode (.op 0x7123) = .error (.refused .reservedOpcode) ∧
  decode (.cmd 0x60000141) = .ok (.startTransfer 1) ∧ decode (.cmd 0x30000200) = .ok (.armPulse 512)

/-- R61, whole: which operation words are refused, and that refusing one changes no register and no memory: the
schedule moves on and the mark is set (log entries 5 and 7). -/
def Obligations.OperationWordRefusedExactlyWhen : Prop :=
  ∀ w : BitVec 16,
    ((∃ c, decode (.op w) = .error (.refused c)) ↔
      (w.toNat / 4096 ∈ [0, 6, 7, 11, 12, 13, 14, 15] ∨
       (w.toNat / 4096 ∈ [1, 2, 3] ∧ w.toNat % 4096 ≠ 0) ∨
       (w.toNat / 4096 = 4 ∧ (w.toNat / 16 % 256 ≠ 0 ∨ 11 ≤ w.toNat % 16)) ∨
       (w.toNat / 4096 = 8 ∧ w.toNat / 256 % 16 ≠ 0) ∨
       (w.toNat / 4096 = 9 ∧ w.toNat / 32 % 128 ≠ 0) ∨
       (w.toNat / 4096 = 10 ∧ (w.toNat / 32 % 128 ≠ 0 ∨ 10 ≤ w.toNat % 16)))) ∧
    ∀ (s : State) (rest : List Input) (c : RefusalCode), s.ready → s.inputs = .word (.op w) :: rest →
      decode (.op w) = .error (.refused c) → step s = .next { s with inputs := rest, refused := some c }

/-! ### The step -/

/-- A step runs the decoded instruction: with no mark set and the configuration admitted, the schedule's next word
is taken and `exec` runs its instruction (log entry 5). -/
def Obligations.StepRunsTheDecodedInstruction : Prop :=
  ∀ (s : State) (w : PortWord) (rest : List Input) (i : Instr), s.ready → s.inputs = .word w :: rest →
    decode w = .ok i → step s = exec i { s with inputs := rest }

/-- A table row's word, given as the next entry, is run in the state it was given to (log entries 5 and 19). -/
def Obligations.StepRunsTheTableWord : Prop :=
  ∀ (s : State) (nbits w : Nat) (i : Instr), s.ready → decodeTableWord nbits w = some i →
    step (s.withFetchWord nbits w) = exec i s

/-- R110, whole: a faulting instruction has no effect but the mark; a set mark enables no step, so none clears it; it
resets to none. How the stop is answered is log entry 7. -/
def Obligations.FaultHasNoOtherEffectAndSticks : Prop :=
  (∀ (i : Instr) (s t : State), exec i s = .next t → t.fault ≠ s.fault → ∃ f, t = { s with fault := some f }) ∧
  (∀ (s : State) (f : FaultRecord), s.fault = some f → step s = .fault (.stopped f)) ∧
  State.reset.fault = none

/-- R111: a configuration is refused as a whole, before any entry of the schedule is read; a set mark enables no step.
That `GAMMA` is looked at before `BASE` is the model's choice (log entry 11). -/
def Obligations.ConfigurationRefusedAsAWhole : Prop :=
  ∀ s : State, s.fault = none →
    (∀ c, s.refused = some c → step s = .refused (.stopped c)) ∧
    (s.refused = none →
      (((∃ i : Fin 256, 1024 ≤ s.cfg.gamma[i]) ∨ (∃ i j : Fin 256, i ≤ j ∧ s.cfg.gamma[j] < s.cfg.gamma[i])) →
        step s = .next { s with refused := some .gammaConfig }) ∧
      ((∀ i : Fin 256, s.cfg.gamma[i] < 1024) → (∀ i j : Fin 256, i ≤ j → s.cfg.gamma[i] ≤ s.cfg.gamma[j]) →
        (s.cfg.base = 0 ∨ 524287 < s.cfg.base → step s = .next { s with refused := some .baseConfig }) ∧
        (1 ≤ s.cfg.base → s.cfg.base ≤ 524287 → s.ready)))

/-- R109, R110, R112, R22: every instruction in every state answers a next state, which is one of two. Where R109's table, in
the order of R112, gives a fault, it is the old state with that fault's mark (log entry 7; the bytes of a bank and the entry
recorded: log entries 8 and 21). Elsewhere it has the instruction's effect on the core's registers, the commands and the
counters (commands by themselves: log entry 4; `rowaddr` in open use: log entry 3), with both marks as before. -/
def Obligations.InstructionTakesItsEffectOrItsFault : Prop :=
  ∀ (i : Instr) (s : State),
    (∀ f, faultIn i s = some f → exec i s = .next { s with fault := some f }) ∧
    (faultIn i s = none → ∃ t, exec i s = .next t ∧ (effectIn i s).leads s t)

/-- R34, R11: no step writes the Gamma LUT or any other parameter. -/
def Obligations.NoStepWritesTheConfiguration : Prop :=
  ∀ s t : State, step s = .next t → t.cfg = s.cfg

/-- R22 (with the command rows, log entry 4): which instructions may change which register or memory. -/
def Obligations.EachRegisterHasItsWriters : Prop :=
  ∀ (i : Instr) (s t : State), exec i s = .next t →
    (t.skip ≠ s.skip → ∃ n, i = .setBrightnessSkip n) ∧
    (t.fbref ≠ s.fbref → ∃ h, i = .setFramebuffer h) ∧
    (t.rp ≠ s.rp → i = .start ∨ i = .transferComplete) ∧
    (t.ph ≠ s.ph → i = .start ∨ i = .transferComplete ∨ i = .pulseComplete) ∧
    (t.ab ≠ s.ab → i = .start ∨ i = .pulseComplete) ∧
    (t.proto ≠ s.proto → i = .start ∨ i = .transferComplete ∨ i = .pulseComplete) ∧
    (t.rowaddr ≠ s.rowaddr → i = .pulseComplete ∨ ∃ r, i = .setRow r) ∧
    (t.rc ≠ s.rc → i = .start ∨ i = .transferComplete ∨ ∃ r, i = .tLoad r) ∧
    (t.lb0 ≠ s.lb0 ∨ t.lb1 ≠ s.lb1 → i = .start ∨ i = .transferComplete ∨ i = .pulseComplete ∨ ∃ p b, i = .tRender p b) ∧
    t.fb = s.fb ∧ t.inputs = s.inputs

/-- R93: once a handle is installed, `fbref` never returns to NONE. -/
def Obligations.InstalledFramebufferStaysInstalled : Prop :=
  ∀ s t : State, step s = .next t → s.fbref ≠ none → t.fbref ≠ none

/-! ### Gamma LUT and row cache -/

/-- R34, R67, R69: of an admitted table, the read gives the entry, in 10 bits, and never falls as the index rises. -/
def Obligations.GammaReadIsTheTableAndMonotone : Prop :=
  ∀ cfg : Config, configRefusal cfg = none →
    (∀ i : Fin 256, (gammaRead cfg (BitVec.ofNat 8 i.val)).toNat = cfg.gamma[i]) ∧
    (∀ i j : Sample, i.toNat ≤ j.toNat → (gammaRead cfg i).toNat ≤ (gammaRead cfg j).toNat)

/-- R68: the default table is admitted, and its ends and some entries of V-GAM-1 are as given. -/
def Obligations.DefaultGammaTable : Prop :=
  configRefusal Config.default = none ∧
  (∀ i : Fin 256, Config.default.gamma[i] = (2 * 1023 * i.val ^ 3 + 255 ^ 3) / (2 * 255 ^ 3)) ∧
  gammaRead Config.default 20 = 0 ∧ gammaRead Config.default 21 = 1 ∧ gammaRead Config.default 128 = 129 ∧
  gammaRead Config.default 200 = 494 ∧ gammaRead Config.default 255 = 1023

/-- R70: T_GAMMA before START replies with the entry, and changes nothing else, in either use. -/
def Obligations.TGammaRepliesWithTheEntry : Prop :=
  ∀ (s : State) (i : Sample), s.proto = .idle →
    exec (.tGamma i) s = .next { s with cmds := s.cmds ++ [0x80000000#32 ||| (gammaRead s.cfg i).zeroExtend 32] }

/-- R71, R73: T_LOAD before START fills the row cache from rows r and r + 32, counts the load, moves `fbframe` in the
latching variant, and changes nothing else. -/
def Obligations.TLoadFillsTheRowCache : Prop :=
  ∀ (s : State) (r : RowPair) (h : Handle), s.proto = .idle →
    (if s.cfg.fbLatchAtFrame = true then (if r = 0 then s.fbref else s.fbframe) else s.fbref) = some h →
    ∃ rc : RowCache,
      exec (.tLoad r) s = .next { s with
        rc := rc, nLoad := s.nLoad + 1,
        fbframe := if s.cfg.fbLatchAtFrame = true ∧ r = 0 then s.fbref else s.fbframe } ∧
      ∀ c : Fin 64,
        rc[c][0] = some (gammaRead s.cfg (fbRead s.fb h r.toNat c.val 0)) ∧
        rc[c][1] = some (gammaRead s.cfg (fbRead s.fb h r.toNat c.val 1)) ∧
        rc[c][2] = some (gammaRead s.cfg (fbRead s.fb h r.toNat c.val 2)) ∧
        rc[c][3] = some (gammaRead s.cfg (fbRead s.fb h (r.toNat + 32) c.val 0)) ∧
        rc[c][4] = some (gammaRead s.cfg (fbRead s.fb h (r.toNat + 32) c.val 1)) ∧
        rc[c][5] = some (gammaRead s.cfg (fbRead s.fb h (r.toNat + 32) c.val 2))

/-- R71, R109 code 3: a load whose handle is NONE faults with its row pair: in T_LOAD, in START (row pair 0), and in the
reload of TRANSFER_COMPLETE (in closed use, where no pulse is in progress). -/
def Obligations.LoadWithoutFramebufferFaults : Prop :=
  ∀ s : State,
    (∀ r, s.proto = .idle →
      (if s.cfg.fbLatchAtFrame = true then (if r = 0 then s.fbref else s.fbframe) else s.fbref) = none →
      exec (.tLoad r) s = .next { s with fault := some (.noFramebuffer r) }) ∧
    (s.proto = .idle → s.fbref = none → exec .start s = .next { s with fault := some (.noFramebuffer 0) }) ∧
    (s.proto = .awaitTC → s.ph = 0 → (s.cfg.use = .closedUse → s.pulse = none) → loadHandle (s.rp + 1) s = none →
      exec .transferComplete s = .next { s with fault := some (.noFramebuffer (s.rp + 1)) })

/-- R109 code 5, R122: the test port after START. -/
def Obligations.TestPortFaultsAfterStart : Prop :=
  ∀ (s : State) (i : Sample) (r : RowPair) (p : Phase) (b : BankIx), s.proto ≠ .idle →
    exec (.tGamma i) s = .next { s with fault := some (.testAfterStart (encode (.tGamma i))) } ∧
    exec (.tLoad r) s = .next { s with fault := some (.testAfterStart (encode (.tLoad r))) } ∧
    exec (.tRender p b) s = .next { s with fault := some (.testAfterStart (encode (.tRender p b))) }

/-! ### Phase encoder -/

/-- R74, R75, R79: T_RENDER before START writes one whole bank: each plane's bit is bit `p + skip` of its entry, or dark
from 10 on; the latch bit is on byte 63 alone; bit 7 is 0; the terminal byte is 0. Nothing else changes but `n_render`. -/
def Obligations.TRenderWritesTheBank : Prop :=
  ∀ (s : State) (p : Phase) (b : BankIx), phaseInRange p → s.proto = .idle → CacheFull s.rc →
    ∃ bank : Bank,
      exec (.tRender p b) s = .next { s with
        lb0 := if b = 0 then bank else s.lb0, lb1 := if b = 0 then s.lb1 else bank, nRender := s.nRender + 1 } ∧
      bank[64] = some 0 ∧
      ∀ c : Fin 64, ∃ byte : LineByte, bank[c.val] = some byte ∧
        byte.getLsbD 6 = decide (c.val = 63) ∧ byte.getLsbD 7 = false ∧
        (PlanesApart s.cfg → ∀ (k : Fin 6) (v : Drive), s.rc[c][k] = some v →
          byte.getLsbD (s.cfg.planeBit[k]).val =
            (if 10 ≤ p.toNat + s.skip.toNat then false else v.getLsbD (p.toNat + s.skip.toNat)))

/-- R55 to R58: every bank that a render writes has this shape, whatever the row cache, the skip and `PLANE_BIT`; at
effective bit 10 it is 63 bytes of 0x00, then 0x40, then 0x00. -/
def Obligations.RenderedBankShape : Prop :=
  ∀ (s t : State) (p : Phase) (b : BankIx), renderPhase p b s = .ok t →
    (∀ c : Fin 63, ∃ byte, (t.bank b)[c.val] = some byte ∧ byte &&& 0xC0 = 0x00) ∧
    (∃ byte, (t.bank b)[63] = some byte ∧ byte &&& 0xC0 = 0x40) ∧
    (t.bank b)[64] = some 0x00 ∧
    (10 ≤ p.toNat + s.skip.toNat →
      (∀ c : Fin 63, (t.bank b)[c.val] = some 0x00) ∧ (t.bank b)[63] = some 0x40)

/-- R76, R77: over ten renders of one row cache, the bits of a plane, weighted by their phase, add up to the
entry shifted right by the skip; with skip 0, to the entry itself. -/
def Obligations.PhasesReconstructTheEntry : Prop :=
  ∀ (s : State) (b : BankIx) (c : Fin 64) (k : Fin 6) (v : Drive) (byteOf : Fin 10 → LineByte),
    PlanesApart s.cfg → s.skip.toNat ≤ 10 → s.rc[c][k] = some v →
    (∀ p : Fin 10, ∃ t, renderPhase (BitVec.ofNat 4 p.val) b s = .ok t ∧ (t.bank b)[c.val] = some (byteOf p)) →
    ((List.finRange 10).map fun p => ((byteOf p).getLsbD (s.cfg.planeBit[k]).val).toNat <<< p.val).sum =
      v.toNat >>> s.skip.toNat

/-- R74, R109 code 4: T_RENDER on a row cache with an entry of no value faults with the first such entry in the order
of R74's loops (log entry 21). -/
def Obligations.RenderOfUnloadedEntryFaults : Prop :=
  ∀ (s : State) (p : Phase) (b : BankIx) (c : Fin 64) (k : Fin 6), phaseInRange p → s.proto = .idle →
    s.rc[c][k] = none →
    (∀ (c' : Fin 64) (k' : Fin 6), c'.val * 6 + k'.val < c.val * 6 + k.val → s.rc[c'][k'] ≠ none) →
    exec (.tRender p b) s = .next { s with fault := some (.unwritten c k) }

/-! ### Scheduler -/

/-- R80 in open use: START primes the pipeline. -/
def Obligations.StartPrimesThePipelineOpen : Prop :=
  ∀ (s : State) (h : Handle), s.proto = .idle → s.cfg.use = .openUse → s.fbref = some h →
    exec .start s = .next { s with
      rp := 0, ph := 0, ab := 1, proto := .awaitTC,
      fbframe := if s.cfg.fbLatchAtFrame = true then some h else s.fbframe,
      rc := loadedCache s.cfg s.fb h 0,
      lb0 := renderedBank s.cfg (loadedCache s.cfg s.fb h 0) (effectiveBit 0 s.skip),
      lb1 := renderedBank s.cfg (loadedCache s.cfg s.fb h 0) (effectiveBit 1 s.skip),
      nLoad := s.nLoad + 1, nRender := s.nRender + 2,
      cmds := s.cmds ++ [0x60000041, 0x50000000] }

/-- R80, R99, R101 in closed use: START also starts the transfer of bank 0 and the driving clock. -/
def Obligations.StartPrimesThePipelineClosed : Prop :=
  ∀ (s : State) (h : Handle), s.proto = .idle → s.cfg.use = .closedUse → s.xfer = none → s.fbref = some h →
    exec .start s = .next { s with
      rp := 0, ph := 0, ab := 1, proto := .awaitTC,
      fbframe := if s.cfg.fbLatchAtFrame = true then some h else s.fbframe,
      rc := loadedCache s.cfg s.fb h 0,
      lb0 := renderedBank s.cfg (loadedCache s.cfg s.fb h 0) (effectiveBit 0 s.skip),
      lb1 := renderedBank s.cfg (loadedCache s.cfg s.fb h 0) (effectiveBit 1 s.skip),
      nLoad := s.nLoad + 1, nRender := s.nRender + 2,
      cmds := s.cmds ++ [0x60000041, 0x50000000],
      xfer := some ⟨0, bankBytes (renderedBank s.cfg (loadedCache s.cfg s.fb h 0) (effectiveBit 0 s.skip)), 0⟩,
      clkRun := true }

/-- R109 codes 1 and 2: START, TRANSFER_COMPLETE and PULSE_COMPLETE outside the protocol state that takes them. -/
def Obligations.OperationOutOfOrderFaults : Prop :=
  ∀ s : State,
    (s.proto ≠ .idle → exec .start s = .next { s with fault := some (.doubleStart (encode .start)) }) ∧
    (s.proto ≠ .awaitTC →
      exec .transferComplete s = .next { s with fault := some (.eventOrder (encode .transferComplete) s.proto) }) ∧
    (s.proto ≠ .awaitPC →
      exec .pulseComplete s = .next { s with fault := some (.eventOrder (encode .pulseComplete) s.proto) })

/-- R81 in open use, both branches. -/
def Obligations.TransferCompleteOpen : Prop :=
  ∀ s : State, s.proto = .awaitTC → s.cfg.use = .openUse →
    (s.ph ≠ 0 →
      exec .transferComplete s = .next { s with
        proto := .awaitPC,
        cmds := s.cmds ++ [0x10000000, 0x30000000#32 ||| (pulseTicks s.cfg.base (s.ph - 1)).zeroExtend 32, 0x40000000] }) ∧
    (∀ h, s.ph = 0 → loadHandle (s.rp + 1) s = some h →
      exec .transferComplete s = .next { s with
        proto := .awaitPC, rp := s.rp + 1,
        fbframe := if s.cfg.fbLatchAtFrame = true ∧ s.rp + 1 = 0 then s.fbref else s.fbframe,
        rc := loadedCache s.cfg s.fb h (s.rp + 1),
        lb0 := if s.ab = 0 then renderedBank s.cfg (loadedCache s.cfg s.fb h (s.rp + 1)) (effectiveBit 0 s.skip) else s.lb0,
        lb1 := if s.ab = 0 then s.lb1 else renderedBank s.cfg (loadedCache s.cfg s.fb h (s.rp + 1)) (effectiveBit 0 s.skip),
        nLoad := s.nLoad + 1, nRender := s.nRender + 1,
        cmds := s.cmds ++ [0x10000000, 0x30000000#32 ||| (pulseTicks s.cfg.base 9).zeroExtend 32, 0x40000000] })

/-- R81, R96, R100, R101 in closed use, both branches: the completion is acknowledged, the pulse is in progress and
displayed, and the clock is stopped. -/
def Obligations.TransferCompleteClosed : Prop :=
  ∀ s : State, s.proto = .awaitTC → s.cfg.use = .closedUse → s.pulse = none →
    (s.ph ≠ 0 →
      exec .transferComplete s = .next { s with
        proto := .awaitPC,
        cmds := s.cmds ++ [0x10000000, 0x30000000#32 ||| (pulseTicks s.cfg.base (s.ph - 1)).zeroExtend 32, 0x40000000],
        tcPend := false, pulse := some (pulseTicks s.cfg.base (s.ph - 1)), oeN := 0, clkRun := false,
        displays := s.displays ++ [⟨s.rowaddr, s.latched, pulseTicks s.cfg.base (s.ph - 1)⟩] }) ∧
    (∀ h, s.ph = 0 → loadHandle (s.rp + 1) s = some h →
      exec .transferComplete s = .next { s with
        proto := .awaitPC, rp := s.rp + 1,
        fbframe := if s.cfg.fbLatchAtFrame = true ∧ s.rp + 1 = 0 then s.fbref else s.fbframe,
        rc := loadedCache s.cfg s.fb h (s.rp + 1),
        lb0 := if s.ab = 0 then renderedBank s.cfg (loadedCache s.cfg s.fb h (s.rp + 1)) (effectiveBit 0 s.skip) else s.lb0,
        lb1 := if s.ab = 0 then s.lb1 else renderedBank s.cfg (loadedCache s.cfg s.fb h (s.rp + 1)) (effectiveBit 0 s.skip),
        nLoad := s.nLoad + 1, nRender := s.nRender + 1,
        cmds := s.cmds ++ [0x10000000, 0x30000000#32 ||| (pulseTicks s.cfg.base 9).zeroExtend 32, 0x40000000],
        tcPend := false, pulse := some (pulseTicks s.cfg.base 9), oeN := 0, clkRun := false,
        displays := s.displays ++ [⟨s.rowaddr, s.latched, pulseTicks s.cfg.base 9⟩] })

/-- R84, R98 in open use, both branches: the row address is the row pair, the old bank is sent, and the phase after it
is rendered into the other bank, or nothing is rendered after phase 9. That SET_ROW writes `rowaddr` in open use is log entry 3. -/
def Obligations.PulseCompleteOpen : Prop :=
  ∀ s : State, s.proto = .awaitPC → s.cfg.use = .openUse →
    (s.ph.toNat < 9 → CacheFull s.rc →
      exec .pulseComplete s = .next { s with
        proto := .awaitTC, rowaddr := s.rp, ab := 1 - s.ab, ph := s.ph + 1,
        lb0 := if s.ab = 1 then renderedBank s.cfg s.rc (effectiveBit (s.ph + 1) s.skip) else s.lb0,
        lb1 := if s.ab = 1 then s.lb1 else renderedBank s.cfg s.rc (effectiveBit (s.ph + 1) s.skip),
        nRender := s.nRender + 1,
        cmds := s.cmds ++ [0x20000000, 0x70000000#32 ||| s.rp.zeroExtend 32,
          0x60000041#32 ||| (s.ab.zeroExtend 32 <<< 8), 0x50000000] }) ∧
    (9 ≤ s.ph.toNat →
      exec .pulseComplete s = .next { s with
        proto := .awaitTC, rowaddr := s.rp, ab := 1 - s.ab, ph := 0,
        cmds := s.cmds ++ [0x20000000, 0x70000000#32 ||| s.rp.zeroExtend 32,
          0x60000041#32 ||| (s.ab.zeroExtend 32 <<< 8), 0x50000000] })

/-- R84, R97, R98, R99, R101 in closed use, both branches: the completion is acknowledged, the transfer of the old
bank is in progress as a snapshot, and the clock runs. -/
def Obligations.PulseCompleteClosed : Prop :=
  ∀ s : State, s.proto = .awaitPC → s.cfg.use = .closedUse → s.xfer = none → BankFull (s.bank s.ab) →
    (s.ph.toNat < 9 → CacheFull s.rc →
      exec .pulseComplete s = .next { s with
        proto := .awaitTC, rowaddr := s.rp, ab := 1 - s.ab, ph := s.ph + 1,
        lb0 := if s.ab = 1 then renderedBank s.cfg s.rc (effectiveBit (s.ph + 1) s.skip) else s.lb0,
        lb1 := if s.ab = 1 then s.lb1 else renderedBank s.cfg s.rc (effectiveBit (s.ph + 1) s.skip),
        nRender := s.nRender + 1,
        cmds := s.cmds ++ [0x20000000, 0x70000000#32 ||| s.rp.zeroExtend 32,
          0x60000041#32 ||| (s.ab.zeroExtend 32 <<< 8), 0x50000000],
        pcPend := false, xfer := some ⟨s.ab, bankBytes (s.bank s.ab), 0⟩, clkRun := true }) ∧
    (9 ≤ s.ph.toNat →
      exec .pulseComplete s = .next { s with
        proto := .awaitTC, rowaddr := s.rp, ab := 1 - s.ab, ph := 0,
        cmds := s.cmds ++ [0x20000000, 0x70000000#32 ||| s.rp.zeroExtend 32,
          0x60000041#32 ||| (s.ab.zeroExtend 32 <<< 8), 0x50000000],
        pcPend := false, xfer := some ⟨s.ab, bankBytes (s.bank s.ab), 0⟩, clkRun := true })

/-- R109 code 6, V-EXC-11: in closed use an operation that meets a busy collaborator has no effect but the fault, which
records the command word: START and PULSE_COMPLETE at START_TRANSFER, TRANSFER_COMPLETE at ARM_PULSE. -/
def Obligations.BusyCollaboratorFaults : Prop :=
  ∀ s : State, s.cfg.use = .closedUse →
    (∀ t h, s.proto = .idle → s.fbref = some h → s.xfer = some t →
      exec .start s = .next { s with fault := some (.collabBusy 0x60000041) }) ∧
    (∀ d, s.proto = .awaitTC → s.pulse = some d →
      exec .transferComplete s = .next { s with
        fault := some (.collabBusy (0x30000000#32 ||| (pulseTicks s.cfg.base (if s.ph = 0 then 9 else s.ph - 1)).zeroExtend 32)) }) ∧
    (∀ t, s.proto = .awaitPC → s.xfer = some t →
      exec .pulseComplete s = .next { s with fault := some (.collabBusy (0x60000041#32 ||| (s.ab.zeroExtend 32 <<< 8))) })

/-- R63, R82: with an admitted `BASE` the field of ARM_PULSE holds `BASE << prev` exactly, `prev` being 9 at phase 0 and the
phase before otherwise. -/
def Obligations.PulseFieldHoldsTheDuration : Prop :=
  ∀ (cfg : Config) (ph : Phase), configRefusal cfg = none → ph.toNat < 10 →
    (pulseTicks cfg.base (prevPhase ph)).toNat = cfg.base * 2 ^ (if ph.toNat = 0 then 9 else ph.toNat - 1)

/-- R89: the first TRANSFER_COMPLETE after START arms `BASE << 9` and moves to row pair 1, and its render replaces the
phase-1 render that START made (open use; with the frame latch, START has latched the handle). -/
def Obligations.FirstPulseAfterStartIsTheLongest : Prop :=
  ∀ (s : State) (h : Handle), s.proto = .idle → s.cfg.use = .openUse → s.fbref = some h →
    ∃ t u, exec .start s = .next t ∧ exec .transferComplete t = .next u ∧ u.fault = s.fault ∧
      u.cmds = s.cmds ++ [0x60000041, 0x50000000, 0x10000000,
        0x30000000#32 ||| (pulseTicks s.cfg.base 9).zeroExtend 32, 0x40000000] ∧
      u.rp = 1 ∧ u.ph = 0 ∧ u.ab = 1 ∧ u.lb0 = t.lb0 ∧
      u.lb1 = renderedBank s.cfg (loadedCache s.cfg s.fb h 1) (effectiveBit 0 s.skip)

/-- R88: a whole frame in open use. From the control state that START leaves, 320 pairs of events come back to it, with
32 loads, 320 renders and 2240 commands (`rowaddr` in open use: log entry 3). -/
def Obligations.FrameReturnsToTheStartState : Prop :=
  ∀ (s : State) (rest : List Input), s.ready → s.cfg.use = .openUse → s.proto = .awaitTC →
    s.rp = 0 → s.ph = 0 → s.ab = 1 → s.fbref ≠ none → (s.cfg.fbLatchAtFrame = true → s.fbframe ≠ none) →
    s.inputs = frameWords.map Input.word ++ rest →
    ∃ t, Host.Core.run Sys2Proof.core 640 s = .next t ∧ t.proto = .awaitTC ∧ t.rp = 0 ∧ t.ph = 0 ∧ t.ab = 1 ∧
      t.rowaddr = 0 ∧ t.nLoad = s.nLoad + 32 ∧ t.nRender = s.nRender + 320 ∧ t.cmds.length = s.cmds.length + 2240 ∧
      t.fault = none ∧ t.refused = none ∧ t.inputs = rest

/-! ### Host writes -/

/-- R91: SET_BRIGHTNESS_SKIP writes `skip` and nothing else, in every state. -/
def Obligations.SkipWriteChangesOnlySkip : Prop :=
  ∀ (s : State) (n : BitVec 4), skipInRange n → exec (.setBrightnessSkip n) s = .next { s with skip := n }

/-- R93: SET_FRAMEBUFFER writes `fbref` and nothing else, in every state. -/
def Obligations.FramebufferWriteChangesOnlyFbref : Prop :=
  ∀ (s : State) (h : Handle), exec (.setFramebuffer h) s = .next { s with fbref := some h }

/-- R48, R94 (open use): a swap changes no bank and not the row cache; the next reload reads the new framebuffer by
default, and the latched one, for a row pair other than 0, in the latching variant. -/
def Obligations.SwapIsSeenByTheNextLoad : Prop :=
  ∀ (s : State) (h : Handle), s.proto = .awaitTC → s.cfg.use = .openUse → s.ph = 0 →
    ∃ t, exec (.setFramebuffer h) s = .next t ∧ t.rc = s.rc ∧ t.lb0 = s.lb0 ∧ t.lb1 = s.lb1 ∧
      (s.cfg.fbLatchAtFrame = false ∨ s.rp + 1 = 0 →
        ∃ u, exec .transferComplete t = .next u ∧ u.rc = loadedCache s.cfg s.fb h (s.rp + 1) ∧
          u.bank (otherBank s.ab) = s.bank (otherBank s.ab)) ∧
      (∀ g, s.cfg.fbLatchAtFrame = true → s.rp + 1 ≠ 0 → s.fbframe = some g →
        ∃ u, exec .transferComplete t = .next u ∧ u.rc = loadedCache s.cfg s.fb g (s.rp + 1) ∧ u.fbframe = some g)

/-- R47 (open use): a new skip changes no bank; the next render uses it, and the bank being sent keeps its content. -/
def Obligations.SkipIsSeenByTheNextRender : Prop :=
  ∀ (s : State) (n : BitVec 4), s.proto = .awaitPC → s.cfg.use = .openUse → s.ph.toNat < 9 → CacheFull s.rc →
    skipInRange n →
    ∃ t u, exec (.setBrightnessSkip n) s = .next t ∧ t.lb0 = s.lb0 ∧ t.lb1 = s.lb1 ∧
      exec .pulseComplete t = .next u ∧ u.bank u.ab = renderedBank s.cfg s.rc (effectiveBit (s.ph + 1) n) ∧
      u.bank s.ab = s.bank s.ab

/-! ### Commands -/

/-- R96, R97, R98, R101, R102: the commands that take effect in every state; each is recorded as its word, and changes
nothing but what is named. That a command word by itself has this effect in either use is log entry 4. -/
def Obligations.CommandsThatAlwaysTakeEffect : Prop :=
  ∀ (s : State) (r : RowPair) (v : Drive),
    exec .ackTransfer s = .next { s with cmds := s.cmds ++ [0x10000000], tcPend := false } ∧
    exec .ackPulse s = .next { s with cmds := s.cmds ++ [0x20000000], pcPend := false } ∧
    exec .stopClock s = .next { s with cmds := s.cmds ++ [0x40000000], clkRun := false } ∧
    exec .startClock s = .next { s with cmds := s.cmds ++ [0x50000000], clkRun := true } ∧
    exec (.setRow r) s = .next { s with cmds := s.cmds ++ [0x70000000#32 ||| r.zeroExtend 32], rowaddr := r } ∧
    exec (.gammaResult v) s = .next { s with cmds := s.cmds ++ [0x80000000#32 ||| v.zeroExtend 32] }

/-- R100: ARM_PULSE with no pulse in progress, and with one, in either use (log entry 4). -/
def Obligations.ArmPulseStartsThePulse : Prop :=
  ∀ (s : State) (d : Ticks),
    (s.pulse = none → exec (.armPulse d) s = .next { s with
      cmds := s.cmds ++ [0x30000000#32 ||| d.zeroExtend 32], pulse := some d, oeN := 0,
      displays := s.displays ++ [⟨s.rowaddr, s.latched, d⟩] }) ∧
    (s.pulse ≠ none → exec (.armPulse d) s =
      .next { s with fault := some (.collabBusy (0x30000000#32 ||| d.zeroExtend 32)) })

/-- R99, R28: START_TRANSFER with no transfer in progress takes a snapshot of the whole bank; with one it faults; a
bank with a byte of no value faults with the first such byte (log entries 4 and 8). -/
def Obligations.StartTransferTakesTheSnapshot : Prop :=
  ∀ (s : State) (b : BankIx) (data : Vector LineByte 65),
    (s.xfer = none → (∀ j : Fin 65, (s.bank b)[j] = some data[j]) → exec (.startTransfer b) s = .next { s with
      cmds := s.cmds ++ [0x60000041#32 ||| (b.zeroExtend 32 <<< 8)], xfer := some ⟨b, data, 0⟩ }) ∧
    (s.xfer ≠ none → exec (.startTransfer b) s =
      .next { s with fault := some (.collabBusy (0x60000041#32 ||| (b.zeroExtend 32 <<< 8))) }) ∧
    (∀ j : Fin 65, s.xfer = none → (s.bank b)[j] = none → (∀ j' : Fin 65, j' < j → (s.bank b)[j'] ≠ none) →
      exec (.startTransfer b) s = .next { s with fault := some (.unwrittenByte b j) })

/-! ### Collaborators in closed use -/

/-- R103: the transfer engine's byte step, as an entry of the schedule (log entry 5; the data lines: log entry 14). -/
def Obligations.ByteStepMovesTheNextByte : Prop :=
  ∀ (s : State) (rest : List Input) (b : BankIx) (data : Vector LineByte 65) (sent : Fin 65),
    s.ready → s.cfg.use = .closedUse → s.inputs = .agent .transferByte :: rest →
    s.xfer = some ⟨b, data, sent.val⟩ → s.clkRun = true →
    step s = .next { s with
      inputs := rest, dataLines := data[sent],
      latched := if data[sent].getLsbD 6 = true then some (Vector.ofFn fun c : Fin 64 => data[c.val]) else s.latched,
      xfer := if sent.val = 64 then none else some ⟨b, data, sent.val + 1⟩,
      tcPend := if sent.val = 64 then true else s.tcPend }

/-- R104: the pulse generator's step, as an entry of the schedule (log entry 5). -/
def Obligations.PulseEndRaisesItsCompletion : Prop :=
  ∀ (s : State) (rest : List Input) (d : Ticks), s.ready → s.cfg.use = .closedUse →
    s.inputs = .agent .pulseEnd :: rest → s.pulse = some d →
    step s = .next { s with inputs := rest, pulse := none, oeN := 1, pcPend := true }

/-- R105: a pending completion is delivered as one step of the scheduler's operation (log entry 5). -/
def Obligations.PendingEventIsDelivered : Prop :=
  ∀ (s : State) (rest : List Input), s.ready → s.cfg.use = .closedUse →
    (s.inputs = .agent .transferEvent :: rest → s.tcPend = true →
      step s = exec .transferComplete { s with inputs := rest }) ∧
    (s.inputs = .agent .pulseEvent :: rest → s.pcPend = true →
      step s = exec .pulseComplete { s with inputs := rest })

/-- R123, R125 and log entry 5: an agent that is not enabled does nothing, and with an empty schedule and no agent
enabled the core waits. -/
def Obligations.NothingEnabledMeansWaiting : Prop :=
  ∀ (s : State) (a : Agent) (rest : List Input), s.ready →
    (s.inputs = .agent a :: rest → enabled s a = false → step s = .next { s with inputs := rest }) ∧
    (s.inputs = [] → (∀ a, enabled s a = false) → step s = .next s)

/-- R95, R103: with an empty schedule, a transfer ends after exactly 65 byte steps: the 64 column bytes are latched, the
terminal byte is on the data lines, and the completion is raised (log entries 5 and 14). -/
def Obligations.TransferEndsAfter65Bytes : Prop :=
  ∀ (s : State) (b : BankIx) (data : Vector LineByte 65), s.ready → s.cfg.use = .closedUse → s.inputs = [] →
    s.xfer = some ⟨b, data, 0⟩ → s.clkRun = true → s.tcPend = false → s.pcPend = false → latchOnLastColumn data →
    Host.Core.run Sys2Proof.core 65 s = .next { s with
      xfer := none, tcPend := true, dataLines := data[64],
      latched := some (Vector.ofFn fun c : Fin 64 => data[c.val]) }

/-- R86: what the panel shows. From a pending pulse-complete in closed use, with an empty schedule, 67 steps (the
PULSE_COMPLETE, 65 bytes, the TRANSFER_COMPLETE) show the bank that was rendered ahead, at row address
`rp`, for `BASE << ph` ticks (the order with an empty schedule: log entry 5). -/
def Obligations.PanelShowsTheRenderedPhase : Prop :=
  ∀ (s : State) (data : Vector LineByte 65), s.ready → s.cfg.use = .closedUse → s.inputs = [] → s.proto = .awaitPC →
    s.xfer = none → s.tcPend = false → s.pulse = none → s.pcPend = true → s.ph.toNat < 10 → CacheFull s.rc →
    (∀ j : Fin 65, (s.bank s.ab)[j] = some data[j]) → latchOnLastColumn data → loadHandle (s.rp + 1) s ≠ none →
    ∃ t, Host.Core.run Sys2Proof.core 67 s = .next t ∧ t.fault = none ∧ t.proto = .awaitPC ∧
      t.displays = s.displays ++ [⟨s.rp, some (Vector.ofFn fun c : Fin 64 => data[c.val]), pulseTicks s.cfg.base s.ph⟩] ∧
      t.pulse = some (pulseTicks s.cfg.base s.ph) ∧ t.oeN = 0

/-- R52 and log entries 6 and 22: the host writes a sample of a framebuffer that is not installed: that place reads as
written, every other place of the grid as before, and nothing else changes; for an installed one (in `fbref`, or in the
latching variant in `fbframe`) the step is refused. -/
def Obligations.HostSampleWriteIsLocal : Prop :=
  ∀ (s : State) (rest : List Input) (h : Handle) (y x : BitVec 6) (ch : Fin 3) (v : Sample), s.ready →
    s.inputs = .hostSample h y x ch v :: rest →
    (s.fbref ≠ some h → (s.cfg.fbLatchAtFrame = true → s.fbframe ≠ some h) →
      ∃ m, step s = .next { s with inputs := rest, fb := m } ∧ fbRead m h y.toNat x.toNat ch.val = v ∧
        ∀ (h' : Handle) (y' x' : BitVec 6) (ch' : Fin 3), ¬ (h' = h ∧ y' = y ∧ x' = x ∧ ch' = ch) →
          fbRead m h' y'.toNat x'.toNat ch'.val = fbRead s.fb h' y'.toNat x'.toNat ch'.val) ∧
    (s.fbref = some h ∨ (s.cfg.fbLatchAtFrame = true ∧ s.fbframe = some h) →
      step s = .refused (.installedFramebufferChanged h))

/-! ### Invariants -/

/-- R124: the reset state has the values the spec gives. -/
def Obligations.ResetStateIsAsGiven : Prop :=
  State.reset.rp = 0 ∧ State.reset.ph = 0 ∧ State.reset.ab = 0 ∧ State.reset.skip = 0 ∧ State.reset.fbref = none ∧
  State.reset.fbframe = none ∧ State.reset.proto = .idle ∧ State.reset.rowaddr = 0 ∧
  (∀ (c : Fin 64) (k : Fin 6), State.reset.rc[c][k] = none) ∧
  (∀ (b : BankIx) (j : Fin 65), (State.reset.bank b)[j] = none) ∧
  State.reset.nLoad = 0 ∧ State.reset.nRender = 0 ∧ State.reset.clkRun = false ∧ State.reset.xfer = none ∧
  State.reset.tcPend = false ∧ State.reset.pulse = none ∧ State.reset.pcPend = false ∧ State.reset.oeN = 1 ∧
  State.reset.latched = none ∧ State.reset.fault = none ∧ State.reset.refused = none

/-- R18, R20, R26 and the canonical form of the framebuffer memory: every step keeps them. -/
def Obligations.StepKeepsLegalValues : Prop :=
  ∀ s t : State, s.inRange → step s = .next t → t.inRange

/-- R31 items 2 to 4, in open and in closed use: every step but a host write of a sample of the loaded framebuffer keeps the
row cache and the bank rendered ahead in step with `(proto, rp, ph, ab)`. The framebuffer of the load changes only with a
load, to the one that load reads, and the skip of the render only with a render, to the skip the register then holds. So
with `k = s.skip`, every step but SET_BRIGHTNESS_SKIP keeps the invariant with the skip register itself. -/
def Obligations.StepKeepsTheBankRenderedAhead : Prop :=
  ∀ (s t : State) (h : Handle) (k : BitVec 4), s.renderedAhead h k → s.leavesAlone h → step s = .next t →
    t.proto ≠ .idle →
    ∃ (h' : Handle) (k' : BitVec 4), t.renderedAhead h' k' ∧
      (if t.nLoad = s.nLoad then h' = h else loadHandle t.rp s = some h') ∧
      (if t.nRender = s.nRender then k' = k else k' = s.skip) ∧
      (k = s.skip → (∀ n rest, s.inputs ≠ .word (encode (.setBrightnessSkip n)) :: rest) → k' = t.skip)

/-- The legal values and the invariants of R31 and R107 hold at reset, the last with closed use configured. -/
def Obligations.ResetMeetsTheInvariants : Prop :=
  State.reset.inRange ∧ (∀ h k, State.reset.renderedAhead h k) ∧
  ({ State.reset with cfg := { State.reset.cfg with use := .closedUse } } : State).closedInOrder

/-- R107, R46, R31 item 5: in closed use, where the two events come only from the collaborators, every step keeps the
order: EVENT_ORDER and COLLAB_BUSY never arise, and the bank being sent is the other one and still holds its snapshot. -/
def Obligations.DeliveredStepKeepsClosedOrder : Prop :=
  ∀ s t : State, s.closedInOrder → s.delivered → step s = .next t → t.closedInOrder

/-- R107: in closed use after START exactly one collaborator step or event is enabled. -/
def Obligations.ExactlyOneAgentIsEnabled : Prop :=
  ∀ s : State, s.closedInOrder → s.proto ≠ .idle →
    ∃ a, enabled s a = true ∧ ∀ b, enabled s b = true → b = a

/-- R123, R106: once started, in closed use and with nothing scheduled by the host, the engine runs indefinitely: no
number of steps stops it or sets a mark (log entries 5 and 16). -/
def Obligations.StartedEngineRunsIndefinitely : Prop :=
  ∀ (s : State) (n : Nat), s.ready → s.closedInOrder → s.proto ≠ .idle → s.inputs = [] →
    ∃ t, Host.Core.run Sys2Proof.core n s = .next t ∧ t.fault = none ∧ t.refused = none ∧ t.proto ≠ .idle
end

