-- ==== Sys2Proof/Laws/Decode.lean ====
section
/-! SUPPORT. Fields of words built from parts: what the decoder's field reads give on the encoder's words. -/

namespace Sys2Proof

/-- A field that lies in the low part. -/
theorem extract_low {m n : Nat} (x : BitVec m) (y : BitVec n) {s len : Nat} (h : s + len ≤ n) :
    (x ++ y).extractLsb' s len = y.extractLsb' s len := by
  ext i hi
  simp only [BitVec.getElem_extractLsb', BitVec.getLsbD_append]
  rw [if_pos (by omega)]

/-- A field that lies in the high part. -/
theorem extract_high {m n : Nat} (x : BitVec m) (y : BitVec n) {s len : Nat} (h : n ≤ s) :
    (x ++ y).extractLsb' s len = x.extractLsb' (s - n) len := by
  ext i hi
  simp only [BitVec.getElem_extractLsb', BitVec.getLsbD_append]
  rw [if_neg (by omega)]
  congr 1
  omega

theorem extract_all {n : Nat} (x : BitVec n) : x.extractLsb' 0 n = x := by
  ext i hi
  simp

/-! ### Operation words -/

theorem opcodeOf_append (c : BitVec 4) (x : BitVec 12) : opcodeOf (c ++ x) = c :=
  (extract_high c x (by decide)).trans (extract_all c)

theorem opField_operand (c : BitVec 4) (x : BitVec 12) : opField (c ++ x) 0 12 = x :=
  (extract_low c x (by decide)).trans (extract_all x)

/-! ### Command words -/

theorem cmdCodeOf_append (c : BitVec 4) (x : BitVec 28) : cmdCodeOf (c ++ x) = c :=
  (extract_high c x (by decide)).trans (extract_all c)

theorem cmdField_operand (c : BitVec 4) (x : BitVec 28) : cmdField (c ++ x) 0 28 = x :=
  (extract_low c x (by decide)).trans (extract_all x)

/-! ### The command words as R62 writes them -/

theorem encodeCommand_ackTransfer : encodeCommand .ackTransfer = 0x10000000#32 := by decide

theorem encodeCommand_ackPulse : encodeCommand .ackPulse = 0x20000000#32 := by decide

theorem encodeCommand_stopClock : encodeCommand .stopClock = 0x40000000#32 := by decide

theorem encodeCommand_startClock : encodeCommand .startClock = 0x50000000#32 := by decide

theorem encodeCommand_armPulse (d : Ticks) : encodeCommand (.armPulse d) = 0x30000000#32 ||| d.zeroExtend 32 := by
  refine BitVec.eq_of_getLsbD_eq fun i hi => ?_
  rw [show (encodeCommand (.armPulse d)).getLsbD i = _ from BitVec.getLsbD_append (x := 0x3#4) (y := d) (i := i)]
  simp only [BitVec.getLsbD_or, BitVec.truncate_eq_setWidth, BitVec.getLsbD_setWidth, hi, decide_true, Bool.true_and]
  by_cases h : i < 28
  · rw [if_pos h, show (0x30000000#32).getLsbD i = false from by revert i; decide, Bool.false_or]
  · rw [if_neg h, BitVec.getLsbD_of_ge d i (by omega), Bool.or_false]
    revert i
    decide

theorem encodeCommand_startTransfer (b : BankIx) :
    encodeCommand (.startTransfer b) = 0x60000041#32 ||| (b.zeroExtend 32 <<< 8) := by
  revert b; decide

theorem encodeCommand_setRow (r : RowPair) : encodeCommand (.setRow r) = 0x70000000#32 ||| r.zeroExtend 32 := by
  revert r; decide

theorem encodeCommand_gammaResult (v : Drive) :
    encodeCommand (.gammaResult v) = 0x80000000#32 ||| v.zeroExtend 32 := by
  revert v; decide +kernel

end Sys2Proof
end

