-- ==== Sys2Proof/Laws/Memory.lean ====
section
/-! SUPPORT. The laws of the storage spaces: read after write, the canonical form, banks, and when a memory is full. -/

namespace Sys2Proof.Machine

/-! ### The framebuffer memory -/

@[simp] theorem Memory.find_write_same (m : Memory) (key : Nat) (v : Sample) :
    Memory.find (Memory.write m key v) key = some v := by
  induction m with
  | nil => simp [Memory.write, Memory.find]
  | cons e rest ih =>
    obtain ⟨k, u⟩ := e
    simp only [Memory.write]
    split
    · simp [Memory.find]
    · split
      · simp [Memory.find]
      · rename_i _ hne
        simp [Memory.find, Ne.symm hne, ih]

theorem Memory.find_write_other (m : Memory) {key other : Nat} (v : Sample) (h : other ≠ key) :
    Memory.find (Memory.write m key v) other = Memory.find m other := by
  induction m with
  | nil => simp [Memory.write, Memory.find, Ne.symm h]
  | cons e rest ih =>
    obtain ⟨k, u⟩ := e
    simp only [Memory.write]
    split
    · simp [Memory.find, Ne.symm h]
    · split
      · rename_i _ heq
        subst heq
        simp [Memory.find, Ne.symm h]
      · simp [Memory.find, ih]

@[simp] theorem Memory.read_write_same (m : Memory) (key : Nat) (v : Sample) :
    Memory.read (Memory.write m key v) key = v := by
  simp [Memory.read]

theorem Memory.read_write_other (m : Memory) {key other : Nat} (v : Sample) (h : other ≠ key) :
    Memory.read (Memory.write m key v) other = Memory.read m other := by
  simp [Memory.read, Memory.find_write_other m v h]

theorem Memory.risingFrom_write (m : Memory) {lo key : Nat} (v : Sample) (hm : Memory.risingFrom lo m = true)
    (hlo : lo ≤ key) (hkey : key < sampleCount) : Memory.risingFrom lo (Memory.write m key v) = true := by
  induction m generalizing lo with
  | nil => simp [Memory.write, Memory.risingFrom, hlo, hkey]
  | cons e rest ih =>
    obtain ⟨k, u⟩ := e
    simp only [Memory.risingFrom, Bool.and_eq_true, decide_eq_true_eq] at hm
    obtain ⟨⟨h1, h2⟩, h3⟩ := hm
    simp only [Memory.write]
    split
    · rename_i hlt
      simp only [Memory.risingFrom, Bool.and_eq_true, decide_eq_true_eq]
      exact ⟨⟨hlo, hkey⟩, ⟨hlt, h2⟩, h3⟩
    · split
      · rename_i _ heq
        subst heq
        simp only [Memory.risingFrom, Bool.and_eq_true, decide_eq_true_eq]
        exact ⟨⟨h1, hkey⟩, h3⟩
      · simp only [Memory.risingFrom, Bool.and_eq_true, decide_eq_true_eq]
        exact ⟨⟨h1, h2⟩, ih h3 (by omega)⟩

/-- Writing a sample of the grid keeps the canonical form: the one operation that changes the memory. -/
theorem Memory.write_keeps_wf (m : Memory) {key : Nat} (v : Sample) (hm : Memory.wf m = true)
    (hkey : key < sampleCount) : Memory.wf (Memory.write m key v) = true :=
  Memory.risingFrom_write m v hm (Nat.zero_le _) hkey

theorem sampleKey_lt (h : Handle) (y x : BitVec 6) (ch : Fin 3) :
    sampleKey h y.toNat x.toNat ch.val < sampleCount := by
  have := h.isLt; have := y.isLt; have := x.isLt; have := ch.isLt
  simp only [sampleKey, sampleCount]
  omega

/-- Two places of the framebuffer grid never share a key. -/
theorem sampleKey_injective {h h' : Handle} {y y' x x' ch ch' : Nat} (hy : y < 64) (hy' : y' < 64)
    (hx : x < 64) (hx' : x' < 64) (hc : ch < 3) (hc' : ch' < 3)
    (heq : sampleKey h y x ch = sampleKey h' y' x' ch') : h = h' ∧ y = y' ∧ x = x' ∧ ch = ch' := by
  simp only [sampleKey] at heq
  refine ⟨BitVec.eq_of_toNat_eq ?_, ?_, ?_, ?_⟩ <;> omega

/-! ### Full memories -/

/-- `firstUnwritten` finds nothing exactly in a row cache whose every entry holds a value. -/
theorem firstUnwritten_eq_none_iff (rc : RowCache) :
    firstUnwritten rc = none ↔ ∀ (c : Fin 64) (k : Fin 6), rc[c][k] ≠ none := by
  simp [firstUnwritten, List.findSome?_eq_none_iff]

/-- A bank has no missing byte exactly when its every byte holds a value. -/
theorem firstMissingByte_eq_none_iff (bank : Bank) :
    firstMissingByte bank = none ↔ ∀ j : Fin 65, bank[j] ≠ none := by
  simp [firstMissingByte, List.find?_eq_none]

theorem loadedCache_entry (cfg : Config) (m : Memory) (h : Handle) (r : RowPair) (c : Fin 64) (k : Fin 6) :
    (loadedCache cfg m h r)[c][k] = some (gammaRead cfg (fbRead m h (planeRow r k) c.val (planeChannel k))) := by
  simp [loadedCache]

/-- A host write of a sample of another framebuffer leaves what a load reads. -/
theorem loadedCache_write_other {cfg : Config} {m : Memory} {h h' : Handle} {r : RowPair} {y x : BitVec 6} {ch : Fin 3}
    {v : Sample} (hne : h' ≠ h) :
    loadedCache cfg (Memory.write m (sampleKey h' y.toNat x.toNat ch.val) v) h r = loadedCache cfg m h r := by
  unfold loadedCache fbRead
  congr 1; funext c; congr 1; funext k
  have hrow : planeRow r k < 64 := by
    have := r.isLt
    unfold planeRow
    split <;> omega
  have hch : planeChannel k < 3 := Nat.mod_lt _ (by decide)
  rw [Memory.read_write_other]
  exact fun he => hne (sampleKey_injective hrow y.isLt c.isLt x.isLt hch ch.isLt he).1.symm

/-- A load fills the row cache (R71). -/
@[simp] theorem firstUnwritten_loadedCache (cfg : Config) (m : Memory) (h : Handle) (r : RowPair) :
    firstUnwritten (loadedCache cfg m h r) = none := by
  rw [firstUnwritten_eq_none_iff]
  intro c k
  rw [loadedCache_entry]
  simp

/-- A render fills a bank (R74). -/
@[simp] theorem firstMissingByte_renderedBank (cfg : Config) (rc : RowCache) (e : Nat) :
    firstMissingByte (renderedBank cfg rc e) = none := by
  rw [firstMissingByte_eq_none_iff]
  intro j
  simp only [renderedBank, Fin.getElem_fin, Vector.getElem_ofFn]
  split <;> simp

/-! ### The two banks -/

@[simp] theorem bank_setBank_same (b : BankIx) (bank : Bank) (s : State) : (s.setBank b bank).bank b = bank := by
  simp only [State.bank, State.setBank]
  split <;> simp_all

theorem bankIx_cases (b : BankIx) : b = 0 ∨ b = 1 := by revert b; decide

theorem bank_setBank_other {b b' : BankIx} (bank : Bank) (s : State) (h : b' ≠ b) :
    (s.setBank b bank).bank b' = s.bank b' := by
  rcases bankIx_cases b with rfl | rfl <;> rcases bankIx_cases b' with rfl | rfl <;>
    simp_all [State.bank, State.setBank]

theorem otherBank_ne (b : BankIx) : otherBank b ≠ b := by revert b; decide

@[simp] theorem otherBank_otherBank (b : BankIx) : otherBank (otherBank b) = b := by revert b; decide

/-! ### The Gamma LUT -/

/-- Neighbours that never fall make a list that never falls. -/
theorem nondecreasing_pairwise (l : List Nat) (h : nondecreasing l = true) : l.Pairwise (· ≤ ·) := by
  induction l with
  | nil => exact List.Pairwise.nil
  | cons a rest ih =>
    cases rest with
    | nil => simp
    | cons b tl =>
      simp only [nondecreasing, Bool.and_eq_true, decide_eq_true_eq] at h
      have hp := ih h.2
      refine List.Pairwise.cons ?_ hp
      intro c hc
      rcases List.mem_cons.1 hc with rfl | hc
      · exact h.1
      · exact le_trans h.1 (List.rel_of_pairwise_cons hp hc)

theorem pairwise_nondecreasing (l : List Nat) (h : l.Pairwise (· ≤ ·)) : nondecreasing l = true := by
  induction l with
  | nil => rfl
  | cons a rest ih =>
    cases rest with
    | nil => rfl
    | cons b tl =>
      simp only [nondecreasing, Bool.and_eq_true, decide_eq_true_eq]
      exact ⟨List.rel_of_pairwise_cons h (by simp), ih h.of_cons⟩

/-- What R67's check says of every two entries. -/
theorem gammaAdmitted_iff (cfg : Config) :
    gammaAdmitted cfg = true ↔
      (∀ i : Fin 256, cfg.gamma[i] < 1024) ∧ ∀ i j : Fin 256, i ≤ j → cfg.gamma[i] ≤ cfg.gamma[j] := by
  have hlen : cfg.gamma.toList.length = 256 := by simp
  rw [gammaAdmitted, Bool.and_eq_true, List.all_eq_true]
  constructor
  · rintro ⟨hr, hm⟩
    refine ⟨fun i => ?_, fun i j hij => ?_⟩
    · simpa using hr cfg.gamma[i] (by simp)
    · have hp := nondecreasing_pairwise _ hm
      rcases Nat.lt_or_eq_of_le hij with hlt | heq
      · have := List.pairwise_iff_getElem.1 hp i.val j.val (by rw [hlen]; exact i.isLt) (by rw [hlen]; exact j.isLt) hlt
        simpa using this
      · have : i = j := Fin.ext heq
        rw [this]
  · rintro ⟨hr, hm⟩
    refine ⟨fun v hv => ?_, pairwise_nondecreasing _ ?_⟩
    · obtain ⟨n, hn, rfl⟩ := List.getElem_of_mem hv
      simpa using hr ⟨n, by simpa using hn⟩
    · refine List.pairwise_iff_getElem.2 fun i j hi hj hij => ?_
      rw [hlen] at hi hj
      simpa using hm ⟨i, hi⟩ ⟨j, hj⟩ (Nat.le_of_lt hij)

/-- An admitted table's entry fits the 10 bits of `gammaRead` (R34). -/
theorem gammaRead_toNat (cfg : Config) (h : gammaAdmitted cfg = true) (i : Sample) :
    (gammaRead cfg i).toNat = cfg.gamma[i.toNat]'i.isLt := by
  have := ((gammaAdmitted_iff cfg).1 h).1 ⟨i.toNat, i.isLt⟩
  simp only [Fin.getElem_fin] at this
  simp [gammaRead, Nat.mod_eq_of_lt this]

end Sys2Proof.Machine
end

