-- ==== Sys2Proof/Laws/State.lean ====
section
/-! SUPPORT. One lemma per field for each named update of the state, and the values that depend on a few fields only. -/

namespace Sys2Proof.Machine

/-! ### record -/

@[simp] theorem record_cfg (c : Command) (s : State) : (record c s).cfg = s.cfg := rfl
@[simp] theorem record_rp (c : Command) (s : State) : (record c s).rp = s.rp := rfl
@[simp] theorem record_ph (c : Command) (s : State) : (record c s).ph = s.ph := rfl
@[simp] theorem record_ab (c : Command) (s : State) : (record c s).ab = s.ab := rfl
@[simp] theorem record_skip (c : Command) (s : State) : (record c s).skip = s.skip := rfl
@[simp] theorem record_fbref (c : Command) (s : State) : (record c s).fbref = s.fbref := rfl
@[simp] theorem record_fbframe (c : Command) (s : State) : (record c s).fbframe = s.fbframe := rfl
@[simp] theorem record_proto (c : Command) (s : State) : (record c s).proto = s.proto := rfl
@[simp] theorem record_rowaddr (c : Command) (s : State) : (record c s).rowaddr = s.rowaddr := rfl
@[simp] theorem record_rc (c : Command) (s : State) : (record c s).rc = s.rc := rfl
@[simp] theorem record_lb0 (c : Command) (s : State) : (record c s).lb0 = s.lb0 := rfl
@[simp] theorem record_lb1 (c : Command) (s : State) : (record c s).lb1 = s.lb1 := rfl
@[simp] theorem record_nLoad (c : Command) (s : State) : (record c s).nLoad = s.nLoad := rfl
@[simp] theorem record_nRender (c : Command) (s : State) : (record c s).nRender = s.nRender := rfl
@[simp] theorem record_clkRun (c : Command) (s : State) : (record c s).clkRun = s.clkRun := rfl
@[simp] theorem record_xfer (c : Command) (s : State) : (record c s).xfer = s.xfer := rfl
@[simp] theorem record_tcPend (c : Command) (s : State) : (record c s).tcPend = s.tcPend := rfl
@[simp] theorem record_pulse (c : Command) (s : State) : (record c s).pulse = s.pulse := rfl
@[simp] theorem record_pcPend (c : Command) (s : State) : (record c s).pcPend = s.pcPend := rfl
@[simp] theorem record_oeN (c : Command) (s : State) : (record c s).oeN = s.oeN := rfl
@[simp] theorem record_latched (c : Command) (s : State) : (record c s).latched = s.latched := rfl
@[simp] theorem record_dataLines (c : Command) (s : State) : (record c s).dataLines = s.dataLines := rfl
@[simp] theorem record_cmds (c : Command) (s : State) : (record c s).cmds = s.cmds ++ [encodeCommand c] := rfl
@[simp] theorem record_displays (c : Command) (s : State) : (record c s).displays = s.displays := rfl
@[simp] theorem record_fault (c : Command) (s : State) : (record c s).fault = s.fault := rfl
@[simp] theorem record_refused (c : Command) (s : State) : (record c s).refused = s.refused := rfl
@[simp] theorem record_fb (c : Command) (s : State) : (record c s).fb = s.fb := rfl
@[simp] theorem record_inputs (c : Command) (s : State) : (record c s).inputs = s.inputs := rfl

/-! ### raiseFault -/

@[simp] theorem raiseFault_cfg (f : FaultRecord) (s : State) : (raiseFault f s).cfg = s.cfg := rfl
@[simp] theorem raiseFault_rp (f : FaultRecord) (s : State) : (raiseFault f s).rp = s.rp := rfl
@[simp] theorem raiseFault_ph (f : FaultRecord) (s : State) : (raiseFault f s).ph = s.ph := rfl
@[simp] theorem raiseFault_ab (f : FaultRecord) (s : State) : (raiseFault f s).ab = s.ab := rfl
@[simp] theorem raiseFault_skip (f : FaultRecord) (s : State) : (raiseFault f s).skip = s.skip := rfl
@[simp] theorem raiseFault_fbref (f : FaultRecord) (s : State) : (raiseFault f s).fbref = s.fbref := rfl
@[simp] theorem raiseFault_fbframe (f : FaultRecord) (s : State) : (raiseFault f s).fbframe = s.fbframe := rfl
@[simp] theorem raiseFault_proto (f : FaultRecord) (s : State) : (raiseFault f s).proto = s.proto := rfl
@[simp] theorem raiseFault_rowaddr (f : FaultRecord) (s : State) : (raiseFault f s).rowaddr = s.rowaddr := rfl
@[simp] theorem raiseFault_rc (f : FaultRecord) (s : State) : (raiseFault f s).rc = s.rc := rfl
@[simp] theorem raiseFault_lb0 (f : FaultRecord) (s : State) : (raiseFault f s).lb0 = s.lb0 := rfl
@[simp] theorem raiseFault_lb1 (f : FaultRecord) (s : State) : (raiseFault f s).lb1 = s.lb1 := rfl
@[simp] theorem raiseFault_nLoad (f : FaultRecord) (s : State) : (raiseFault f s).nLoad = s.nLoad := rfl
@[simp] theorem raiseFault_nRender (f : FaultRecord) (s : State) : (raiseFault f s).nRender = s.nRender := rfl
@[simp] theorem raiseFault_clkRun (f : FaultRecord) (s : State) : (raiseFault f s).clkRun = s.clkRun := rfl
@[simp] theorem raiseFault_xfer (f : FaultRecord) (s : State) : (raiseFault f s).xfer = s.xfer := rfl
@[simp] theorem raiseFault_tcPend (f : FaultRecord) (s : State) : (raiseFault f s).tcPend = s.tcPend := rfl
@[simp] theorem raiseFault_pulse (f : FaultRecord) (s : State) : (raiseFault f s).pulse = s.pulse := rfl
@[simp] theorem raiseFault_pcPend (f : FaultRecord) (s : State) : (raiseFault f s).pcPend = s.pcPend := rfl
@[simp] theorem raiseFault_oeN (f : FaultRecord) (s : State) : (raiseFault f s).oeN = s.oeN := rfl
@[simp] theorem raiseFault_latched (f : FaultRecord) (s : State) : (raiseFault f s).latched = s.latched := rfl
@[simp] theorem raiseFault_dataLines (f : FaultRecord) (s : State) : (raiseFault f s).dataLines = s.dataLines := rfl
@[simp] theorem raiseFault_cmds (f : FaultRecord) (s : State) : (raiseFault f s).cmds = s.cmds := rfl
@[simp] theorem raiseFault_displays (f : FaultRecord) (s : State) : (raiseFault f s).displays = s.displays := rfl
@[simp] theorem raiseFault_fault (f : FaultRecord) (s : State) : (raiseFault f s).fault = some f := rfl
@[simp] theorem raiseFault_refused (f : FaultRecord) (s : State) : (raiseFault f s).refused = s.refused := rfl
@[simp] theorem raiseFault_fb (f : FaultRecord) (s : State) : (raiseFault f s).fb = s.fb := rfl
@[simp] theorem raiseFault_inputs (f : FaultRecord) (s : State) : (raiseFault f s).inputs = s.inputs := rfl

/-! ### raiseRefusal -/

@[simp] theorem raiseRefusal_cfg (c : RefusalCode) (s : State) : (raiseRefusal c s).cfg = s.cfg := rfl
@[simp] theorem raiseRefusal_rp (c : RefusalCode) (s : State) : (raiseRefusal c s).rp = s.rp := rfl
@[simp] theorem raiseRefusal_ph (c : RefusalCode) (s : State) : (raiseRefusal c s).ph = s.ph := rfl
@[simp] theorem raiseRefusal_ab (c : RefusalCode) (s : State) : (raiseRefusal c s).ab = s.ab := rfl
@[simp] theorem raiseRefusal_skip (c : RefusalCode) (s : State) : (raiseRefusal c s).skip = s.skip := rfl
@[simp] theorem raiseRefusal_fbref (c : RefusalCode) (s : State) : (raiseRefusal c s).fbref = s.fbref := rfl
@[simp] theorem raiseRefusal_fbframe (c : RefusalCode) (s : State) : (raiseRefusal c s).fbframe = s.fbframe := rfl
@[simp] theorem raiseRefusal_proto (c : RefusalCode) (s : State) : (raiseRefusal c s).proto = s.proto := rfl
@[simp] theorem raiseRefusal_rowaddr (c : RefusalCode) (s : State) : (raiseRefusal c s).rowaddr = s.rowaddr := rfl
@[simp] theorem raiseRefusal_rc (c : RefusalCode) (s : State) : (raiseRefusal c s).rc = s.rc := rfl
@[simp] theorem raiseRefusal_lb0 (c : RefusalCode) (s : State) : (raiseRefusal c s).lb0 = s.lb0 := rfl
@[simp] theorem raiseRefusal_lb1 (c : RefusalCode) (s : State) : (raiseRefusal c s).lb1 = s.lb1 := rfl
@[simp] theorem raiseRefusal_nLoad (c : RefusalCode) (s : State) : (raiseRefusal c s).nLoad = s.nLoad := rfl
@[simp] theorem raiseRefusal_nRender (c : RefusalCode) (s : State) : (raiseRefusal c s).nRender = s.nRender := rfl
@[simp] theorem raiseRefusal_clkRun (c : RefusalCode) (s : State) : (raiseRefusal c s).clkRun = s.clkRun := rfl
@[simp] theorem raiseRefusal_xfer (c : RefusalCode) (s : State) : (raiseRefusal c s).xfer = s.xfer := rfl
@[simp] theorem raiseRefusal_tcPend (c : RefusalCode) (s : State) : (raiseRefusal c s).tcPend = s.tcPend := rfl
@[simp] theorem raiseRefusal_pulse (c : RefusalCode) (s : State) : (raiseRefusal c s).pulse = s.pulse := rfl
@[simp] theorem raiseRefusal_pcPend (c : RefusalCode) (s : State) : (raiseRefusal c s).pcPend = s.pcPend := rfl
@[simp] theorem raiseRefusal_oeN (c : RefusalCode) (s : State) : (raiseRefusal c s).oeN = s.oeN := rfl
@[simp] theorem raiseRefusal_latched (c : RefusalCode) (s : State) : (raiseRefusal c s).latched = s.latched := rfl
@[simp] theorem raiseRefusal_dataLines (c : RefusalCode) (s : State) : (raiseRefusal c s).dataLines = s.dataLines := rfl
@[simp] theorem raiseRefusal_cmds (c : RefusalCode) (s : State) : (raiseRefusal c s).cmds = s.cmds := rfl
@[simp] theorem raiseRefusal_displays (c : RefusalCode) (s : State) : (raiseRefusal c s).displays = s.displays := rfl
@[simp] theorem raiseRefusal_fault (c : RefusalCode) (s : State) : (raiseRefusal c s).fault = s.fault := rfl
@[simp] theorem raiseRefusal_refused (c : RefusalCode) (s : State) : (raiseRefusal c s).refused = some c := rfl
@[simp] theorem raiseRefusal_fb (c : RefusalCode) (s : State) : (raiseRefusal c s).fb = s.fb := rfl
@[simp] theorem raiseRefusal_inputs (c : RefusalCode) (s : State) : (raiseRefusal c s).inputs = s.inputs := rfl

/-! ### setRowaddr -/

@[simp] theorem setRowaddr_cfg (r : RowPair) (s : State) : (setRowaddr r s).cfg = s.cfg := rfl
@[simp] theorem setRowaddr_rp (r : RowPair) (s : State) : (setRowaddr r s).rp = s.rp := rfl
@[simp] theorem setRowaddr_ph (r : RowPair) (s : State) : (setRowaddr r s).ph = s.ph := rfl
@[simp] theorem setRowaddr_ab (r : RowPair) (s : State) : (setRowaddr r s).ab = s.ab := rfl
@[simp] theorem setRowaddr_skip (r : RowPair) (s : State) : (setRowaddr r s).skip = s.skip := rfl
@[simp] theorem setRowaddr_fbref (r : RowPair) (s : State) : (setRowaddr r s).fbref = s.fbref := rfl
@[simp] theorem setRowaddr_fbframe (r : RowPair) (s : State) : (setRowaddr r s).fbframe = s.fbframe := rfl
@[simp] theorem setRowaddr_proto (r : RowPair) (s : State) : (setRowaddr r s).proto = s.proto := rfl
@[simp] theorem setRowaddr_rowaddr (r : RowPair) (s : State) : (setRowaddr r s).rowaddr = r := rfl
@[simp] theorem setRowaddr_rc (r : RowPair) (s : State) : (setRowaddr r s).rc = s.rc := rfl
@[simp] theorem setRowaddr_lb0 (r : RowPair) (s : State) : (setRowaddr r s).lb0 = s.lb0 := rfl
@[simp] theorem setRowaddr_lb1 (r : RowPair) (s : State) : (setRowaddr r s).lb1 = s.lb1 := rfl
@[simp] theorem setRowaddr_nLoad (r : RowPair) (s : State) : (setRowaddr r s).nLoad = s.nLoad := rfl
@[simp] theorem setRowaddr_nRender (r : RowPair) (s : State) : (setRowaddr r s).nRender = s.nRender := rfl
@[simp] theorem setRowaddr_clkRun (r : RowPair) (s : State) : (setRowaddr r s).clkRun = s.clkRun := rfl
@[simp] theorem setRowaddr_xfer (r : RowPair) (s : State) : (setRowaddr r s).xfer = s.xfer := rfl
@[simp] theorem setRowaddr_tcPend (r : RowPair) (s : State) : (setRowaddr r s).tcPend = s.tcPend := rfl
@[simp] theorem setRowaddr_pulse (r : RowPair) (s : State) : (setRowaddr r s).pulse = s.pulse := rfl
@[simp] theorem setRowaddr_pcPend (r : RowPair) (s : State) : (setRowaddr r s).pcPend = s.pcPend := rfl
@[simp] theorem setRowaddr_oeN (r : RowPair) (s : State) : (setRowaddr r s).oeN = s.oeN := rfl
@[simp] theorem setRowaddr_latched (r : RowPair) (s : State) : (setRowaddr r s).latched = s.latched := rfl
@[simp] theorem setRowaddr_dataLines (r : RowPair) (s : State) : (setRowaddr r s).dataLines = s.dataLines := rfl
@[simp] theorem setRowaddr_cmds (r : RowPair) (s : State) : (setRowaddr r s).cmds = s.cmds := rfl
@[simp] theorem setRowaddr_displays (r : RowPair) (s : State) : (setRowaddr r s).displays = s.displays := rfl
@[simp] theorem setRowaddr_fault (r : RowPair) (s : State) : (setRowaddr r s).fault = s.fault := rfl
@[simp] theorem setRowaddr_refused (r : RowPair) (s : State) : (setRowaddr r s).refused = s.refused := rfl
@[simp] theorem setRowaddr_fb (r : RowPair) (s : State) : (setRowaddr r s).fb = s.fb := rfl
@[simp] theorem setRowaddr_inputs (r : RowPair) (s : State) : (setRowaddr r s).inputs = s.inputs := rfl

/-! ### setClock -/

@[simp] theorem setClock_cfg (b : Bool) (s : State) : (setClock b s).cfg = s.cfg := rfl
@[simp] theorem setClock_rp (b : Bool) (s : State) : (setClock b s).rp = s.rp := rfl
@[simp] theorem setClock_ph (b : Bool) (s : State) : (setClock b s).ph = s.ph := rfl
@[simp] theorem setClock_ab (b : Bool) (s : State) : (setClock b s).ab = s.ab := rfl
@[simp] theorem setClock_skip (b : Bool) (s : State) : (setClock b s).skip = s.skip := rfl
@[simp] theorem setClock_fbref (b : Bool) (s : State) : (setClock b s).fbref = s.fbref := rfl
@[simp] theorem setClock_fbframe (b : Bool) (s : State) : (setClock b s).fbframe = s.fbframe := rfl
@[simp] theorem setClock_proto (b : Bool) (s : State) : (setClock b s).proto = s.proto := rfl
@[simp] theorem setClock_rowaddr (b : Bool) (s : State) : (setClock b s).rowaddr = s.rowaddr := rfl
@[simp] theorem setClock_rc (b : Bool) (s : State) : (setClock b s).rc = s.rc := rfl
@[simp] theorem setClock_lb0 (b : Bool) (s : State) : (setClock b s).lb0 = s.lb0 := rfl
@[simp] theorem setClock_lb1 (b : Bool) (s : State) : (setClock b s).lb1 = s.lb1 := rfl
@[simp] theorem setClock_nLoad (b : Bool) (s : State) : (setClock b s).nLoad = s.nLoad := rfl
@[simp] theorem setClock_nRender (b : Bool) (s : State) : (setClock b s).nRender = s.nRender := rfl
@[simp] theorem setClock_clkRun (b : Bool) (s : State) : (setClock b s).clkRun = b := rfl
@[simp] theorem setClock_xfer (b : Bool) (s : State) : (setClock b s).xfer = s.xfer := rfl
@[simp] theorem setClock_tcPend (b : Bool) (s : State) : (setClock b s).tcPend = s.tcPend := rfl
@[simp] theorem setClock_pulse (b : Bool) (s : State) : (setClock b s).pulse = s.pulse := rfl
@[simp] theorem setClock_pcPend (b : Bool) (s : State) : (setClock b s).pcPend = s.pcPend := rfl
@[simp] theorem setClock_oeN (b : Bool) (s : State) : (setClock b s).oeN = s.oeN := rfl
@[simp] theorem setClock_latched (b : Bool) (s : State) : (setClock b s).latched = s.latched := rfl
@[simp] theorem setClock_dataLines (b : Bool) (s : State) : (setClock b s).dataLines = s.dataLines := rfl
@[simp] theorem setClock_cmds (b : Bool) (s : State) : (setClock b s).cmds = s.cmds := rfl
@[simp] theorem setClock_displays (b : Bool) (s : State) : (setClock b s).displays = s.displays := rfl
@[simp] theorem setClock_fault (b : Bool) (s : State) : (setClock b s).fault = s.fault := rfl
@[simp] theorem setClock_refused (b : Bool) (s : State) : (setClock b s).refused = s.refused := rfl
@[simp] theorem setClock_fb (b : Bool) (s : State) : (setClock b s).fb = s.fb := rfl
@[simp] theorem setClock_inputs (b : Bool) (s : State) : (setClock b s).inputs = s.inputs := rfl

/-! ### setTransfer -/

@[simp] theorem setTransfer_cfg (x : Option Transfer) (s : State) : (setTransfer x s).cfg = s.cfg := rfl
@[simp] theorem setTransfer_rp (x : Option Transfer) (s : State) : (setTransfer x s).rp = s.rp := rfl
@[simp] theorem setTransfer_ph (x : Option Transfer) (s : State) : (setTransfer x s).ph = s.ph := rfl
@[simp] theorem setTransfer_ab (x : Option Transfer) (s : State) : (setTransfer x s).ab = s.ab := rfl
@[simp] theorem setTransfer_skip (x : Option Transfer) (s : State) : (setTransfer x s).skip = s.skip := rfl
@[simp] theorem setTransfer_fbref (x : Option Transfer) (s : State) : (setTransfer x s).fbref = s.fbref := rfl
@[simp] theorem setTransfer_fbframe (x : Option Transfer) (s : State) : (setTransfer x s).fbframe = s.fbframe := rfl
@[simp] theorem setTransfer_proto (x : Option Transfer) (s : State) : (setTransfer x s).proto = s.proto := rfl
@[simp] theorem setTransfer_rowaddr (x : Option Transfer) (s : State) : (setTransfer x s).rowaddr = s.rowaddr := rfl
@[simp] theorem setTransfer_rc (x : Option Transfer) (s : State) : (setTransfer x s).rc = s.rc := rfl
@[simp] theorem setTransfer_lb0 (x : Option Transfer) (s : State) : (setTransfer x s).lb0 = s.lb0 := rfl
@[simp] theorem setTransfer_lb1 (x : Option Transfer) (s : State) : (setTransfer x s).lb1 = s.lb1 := rfl
@[simp] theorem setTransfer_nLoad (x : Option Transfer) (s : State) : (setTransfer x s).nLoad = s.nLoad := rfl
@[simp] theorem setTransfer_nRender (x : Option Transfer) (s : State) : (setTransfer x s).nRender = s.nRender := rfl
@[simp] theorem setTransfer_clkRun (x : Option Transfer) (s : State) : (setTransfer x s).clkRun = s.clkRun := rfl
@[simp] theorem setTransfer_xfer (x : Option Transfer) (s : State) : (setTransfer x s).xfer = x := rfl
@[simp] theorem setTransfer_tcPend (x : Option Transfer) (s : State) : (setTransfer x s).tcPend = s.tcPend := rfl
@[simp] theorem setTransfer_pulse (x : Option Transfer) (s : State) : (setTransfer x s).pulse = s.pulse := rfl
@[simp] theorem setTransfer_pcPend (x : Option Transfer) (s : State) : (setTransfer x s).pcPend = s.pcPend := rfl
@[simp] theorem setTransfer_oeN (x : Option Transfer) (s : State) : (setTransfer x s).oeN = s.oeN := rfl
@[simp] theorem setTransfer_latched (x : Option Transfer) (s : State) : (setTransfer x s).latched = s.latched := rfl
@[simp] theorem setTransfer_dataLines (x : Option Transfer) (s : State) : (setTransfer x s).dataLines = s.dataLines := rfl
@[simp] theorem setTransfer_cmds (x : Option Transfer) (s : State) : (setTransfer x s).cmds = s.cmds := rfl
@[simp] theorem setTransfer_displays (x : Option Transfer) (s : State) : (setTransfer x s).displays = s.displays := rfl
@[simp] theorem setTransfer_fault (x : Option Transfer) (s : State) : (setTransfer x s).fault = s.fault := rfl
@[simp] theorem setTransfer_refused (x : Option Transfer) (s : State) : (setTransfer x s).refused = s.refused := rfl
@[simp] theorem setTransfer_fb (x : Option Transfer) (s : State) : (setTransfer x s).fb = s.fb := rfl
@[simp] theorem setTransfer_inputs (x : Option Transfer) (s : State) : (setTransfer x s).inputs = s.inputs := rfl

/-! ### recordDisplay -/

@[simp] theorem recordDisplay_cfg (d : Ticks) (s : State) : (recordDisplay d s).cfg = s.cfg := rfl
@[simp] theorem recordDisplay_rp (d : Ticks) (s : State) : (recordDisplay d s).rp = s.rp := rfl
@[simp] theorem recordDisplay_ph (d : Ticks) (s : State) : (recordDisplay d s).ph = s.ph := rfl
@[simp] theorem recordDisplay_ab (d : Ticks) (s : State) : (recordDisplay d s).ab = s.ab := rfl
@[simp] theorem recordDisplay_skip (d : Ticks) (s : State) : (recordDisplay d s).skip = s.skip := rfl
@[simp] theorem recordDisplay_fbref (d : Ticks) (s : State) : (recordDisplay d s).fbref = s.fbref := rfl
@[simp] theorem recordDisplay_fbframe (d : Ticks) (s : State) : (recordDisplay d s).fbframe = s.fbframe := rfl
@[simp] theorem recordDisplay_proto (d : Ticks) (s : State) : (recordDisplay d s).proto = s.proto := rfl
@[simp] theorem recordDisplay_rowaddr (d : Ticks) (s : State) : (recordDisplay d s).rowaddr = s.rowaddr := rfl
@[simp] theorem recordDisplay_rc (d : Ticks) (s : State) : (recordDisplay d s).rc = s.rc := rfl
@[simp] theorem recordDisplay_lb0 (d : Ticks) (s : State) : (recordDisplay d s).lb0 = s.lb0 := rfl
@[simp] theorem recordDisplay_lb1 (d : Ticks) (s : State) : (recordDisplay d s).lb1 = s.lb1 := rfl
@[simp] theorem recordDisplay_nLoad (d : Ticks) (s : State) : (recordDisplay d s).nLoad = s.nLoad := rfl
@[simp] theorem recordDisplay_nRender (d : Ticks) (s : State) : (recordDisplay d s).nRender = s.nRender := rfl
@[simp] theorem recordDisplay_clkRun (d : Ticks) (s : State) : (recordDisplay d s).clkRun = s.clkRun := rfl
@[simp] theorem recordDisplay_xfer (d : Ticks) (s : State) : (recordDisplay d s).xfer = s.xfer := rfl
@[simp] theorem recordDisplay_tcPend (d : Ticks) (s : State) : (recordDisplay d s).tcPend = s.tcPend := rfl
@[simp] theorem recordDisplay_pulse (d : Ticks) (s : State) : (recordDisplay d s).pulse = s.pulse := rfl
@[simp] theorem recordDisplay_pcPend (d : Ticks) (s : State) : (recordDisplay d s).pcPend = s.pcPend := rfl
@[simp] theorem recordDisplay_oeN (d : Ticks) (s : State) : (recordDisplay d s).oeN = s.oeN := rfl
@[simp] theorem recordDisplay_latched (d : Ticks) (s : State) : (recordDisplay d s).latched = s.latched := rfl
@[simp] theorem recordDisplay_dataLines (d : Ticks) (s : State) : (recordDisplay d s).dataLines = s.dataLines := rfl
@[simp] theorem recordDisplay_cmds (d : Ticks) (s : State) : (recordDisplay d s).cmds = s.cmds := rfl
@[simp] theorem recordDisplay_displays (d : Ticks) (s : State) : (recordDisplay d s).displays = s.displays ++ [⟨s.rowaddr, s.latched, d⟩] := rfl
@[simp] theorem recordDisplay_fault (d : Ticks) (s : State) : (recordDisplay d s).fault = s.fault := rfl
@[simp] theorem recordDisplay_refused (d : Ticks) (s : State) : (recordDisplay d s).refused = s.refused := rfl
@[simp] theorem recordDisplay_fb (d : Ticks) (s : State) : (recordDisplay d s).fb = s.fb := rfl
@[simp] theorem recordDisplay_inputs (d : Ticks) (s : State) : (recordDisplay d s).inputs = s.inputs := rfl

/-! ### setBank -/

@[simp] theorem setBank_cfg (b : BankIx) (bank : Bank) (s : State) : (s.setBank b bank).cfg = s.cfg := rfl
@[simp] theorem setBank_rp (b : BankIx) (bank : Bank) (s : State) : (s.setBank b bank).rp = s.rp := rfl
@[simp] theorem setBank_ph (b : BankIx) (bank : Bank) (s : State) : (s.setBank b bank).ph = s.ph := rfl
@[simp] theorem setBank_ab (b : BankIx) (bank : Bank) (s : State) : (s.setBank b bank).ab = s.ab := rfl
@[simp] theorem setBank_skip (b : BankIx) (bank : Bank) (s : State) : (s.setBank b bank).skip = s.skip := rfl
@[simp] theorem setBank_fbref (b : BankIx) (bank : Bank) (s : State) : (s.setBank b bank).fbref = s.fbref := rfl
@[simp] theorem setBank_fbframe (b : BankIx) (bank : Bank) (s : State) : (s.setBank b bank).fbframe = s.fbframe := rfl
@[simp] theorem setBank_proto (b : BankIx) (bank : Bank) (s : State) : (s.setBank b bank).proto = s.proto := rfl
@[simp] theorem setBank_rowaddr (b : BankIx) (bank : Bank) (s : State) : (s.setBank b bank).rowaddr = s.rowaddr := rfl
@[simp] theorem setBank_rc (b : BankIx) (bank : Bank) (s : State) : (s.setBank b bank).rc = s.rc := rfl
@[simp] theorem setBank_lb0 (b : BankIx) (bank : Bank) (s : State) : (s.setBank b bank).lb0 = if b = 0 then bank else s.lb0 := rfl
@[simp] theorem setBank_lb1 (b : BankIx) (bank : Bank) (s : State) : (s.setBank b bank).lb1 = if b = 0 then s.lb1 else bank := rfl
@[simp] theorem setBank_nLoad (b : BankIx) (bank : Bank) (s : State) : (s.setBank b bank).nLoad = s.nLoad := rfl
@[simp] theorem setBank_nRender (b : BankIx) (bank : Bank) (s : State) : (s.setBank b bank).nRender = s.nRender := rfl
@[simp] theorem setBank_clkRun (b : BankIx) (bank : Bank) (s : State) : (s.setBank b bank).clkRun = s.clkRun := rfl
@[simp] theorem setBank_xfer (b : BankIx) (bank : Bank) (s : State) : (s.setBank b bank).xfer = s.xfer := rfl
@[simp] theorem setBank_tcPend (b : BankIx) (bank : Bank) (s : State) : (s.setBank b bank).tcPend = s.tcPend := rfl
@[simp] theorem setBank_pulse (b : BankIx) (bank : Bank) (s : State) : (s.setBank b bank).pulse = s.pulse := rfl
@[simp] theorem setBank_pcPend (b : BankIx) (bank : Bank) (s : State) : (s.setBank b bank).pcPend = s.pcPend := rfl
@[simp] theorem setBank_oeN (b : BankIx) (bank : Bank) (s : State) : (s.setBank b bank).oeN = s.oeN := rfl
@[simp] theorem setBank_latched (b : BankIx) (bank : Bank) (s : State) : (s.setBank b bank).latched = s.latched := rfl
@[simp] theorem setBank_dataLines (b : BankIx) (bank : Bank) (s : State) : (s.setBank b bank).dataLines = s.dataLines := rfl
@[simp] theorem setBank_cmds (b : BankIx) (bank : Bank) (s : State) : (s.setBank b bank).cmds = s.cmds := rfl
@[simp] theorem setBank_displays (b : BankIx) (bank : Bank) (s : State) : (s.setBank b bank).displays = s.displays := rfl
@[simp] theorem setBank_fault (b : BankIx) (bank : Bank) (s : State) : (s.setBank b bank).fault = s.fault := rfl
@[simp] theorem setBank_refused (b : BankIx) (bank : Bank) (s : State) : (s.setBank b bank).refused = s.refused := rfl
@[simp] theorem setBank_fb (b : BankIx) (bank : Bank) (s : State) : (s.setBank b bank).fb = s.fb := rfl
@[simp] theorem setBank_inputs (b : BankIx) (bank : Bank) (s : State) : (s.setBank b bank).inputs = s.inputs := rfl

/-! ### storeLoad -/

@[simp] theorem storeLoad_cfg (r : RowPair) (h : Handle) (s : State) : (storeLoad r h s).cfg = s.cfg := rfl
@[simp] theorem storeLoad_rp (r : RowPair) (h : Handle) (s : State) : (storeLoad r h s).rp = s.rp := rfl
@[simp] theorem storeLoad_ph (r : RowPair) (h : Handle) (s : State) : (storeLoad r h s).ph = s.ph := rfl
@[simp] theorem storeLoad_ab (r : RowPair) (h : Handle) (s : State) : (storeLoad r h s).ab = s.ab := rfl
@[simp] theorem storeLoad_skip (r : RowPair) (h : Handle) (s : State) : (storeLoad r h s).skip = s.skip := rfl
@[simp] theorem storeLoad_fbref (r : RowPair) (h : Handle) (s : State) : (storeLoad r h s).fbref = s.fbref := rfl
@[simp] theorem storeLoad_fbframe (r : RowPair) (h : Handle) (s : State) : (storeLoad r h s).fbframe = latchedFrame r s := rfl
@[simp] theorem storeLoad_proto (r : RowPair) (h : Handle) (s : State) : (storeLoad r h s).proto = s.proto := rfl
@[simp] theorem storeLoad_rowaddr (r : RowPair) (h : Handle) (s : State) : (storeLoad r h s).rowaddr = s.rowaddr := rfl
@[simp] theorem storeLoad_rc (r : RowPair) (h : Handle) (s : State) : (storeLoad r h s).rc = loadedCache s.cfg s.fb h r := rfl
@[simp] theorem storeLoad_lb0 (r : RowPair) (h : Handle) (s : State) : (storeLoad r h s).lb0 = s.lb0 := rfl
@[simp] theorem storeLoad_lb1 (r : RowPair) (h : Handle) (s : State) : (storeLoad r h s).lb1 = s.lb1 := rfl
@[simp] theorem storeLoad_nLoad (r : RowPair) (h : Handle) (s : State) : (storeLoad r h s).nLoad = s.nLoad + 1 := rfl
@[simp] theorem storeLoad_nRender (r : RowPair) (h : Handle) (s : State) : (storeLoad r h s).nRender = s.nRender := rfl
@[simp] theorem storeLoad_clkRun (r : RowPair) (h : Handle) (s : State) : (storeLoad r h s).clkRun = s.clkRun := rfl
@[simp] theorem storeLoad_xfer (r : RowPair) (h : Handle) (s : State) : (storeLoad r h s).xfer = s.xfer := rfl
@[simp] theorem storeLoad_tcPend (r : RowPair) (h : Handle) (s : State) : (storeLoad r h s).tcPend = s.tcPend := rfl
@[simp] theorem storeLoad_pulse (r : RowPair) (h : Handle) (s : State) : (storeLoad r h s).pulse = s.pulse := rfl
@[simp] theorem storeLoad_pcPend (r : RowPair) (h : Handle) (s : State) : (storeLoad r h s).pcPend = s.pcPend := rfl
@[simp] theorem storeLoad_oeN (r : RowPair) (h : Handle) (s : State) : (storeLoad r h s).oeN = s.oeN := rfl
@[simp] theorem storeLoad_latched (r : RowPair) (h : Handle) (s : State) : (storeLoad r h s).latched = s.latched := rfl
@[simp] theorem storeLoad_dataLines (r : RowPair) (h : Handle) (s : State) : (storeLoad r h s).dataLines = s.dataLines := rfl
@[simp] theorem storeLoad_cmds (r : RowPair) (h : Handle) (s : State) : (storeLoad r h s).cmds = s.cmds := rfl
@[simp] theorem storeLoad_displays (r : RowPair) (h : Handle) (s : State) : (storeLoad r h s).displays = s.displays := rfl
@[simp] theorem storeLoad_fault (r : RowPair) (h : Handle) (s : State) : (storeLoad r h s).fault = s.fault := rfl
@[simp] theorem storeLoad_refused (r : RowPair) (h : Handle) (s : State) : (storeLoad r h s).refused = s.refused := rfl
@[simp] theorem storeLoad_fb (r : RowPair) (h : Handle) (s : State) : (storeLoad r h s).fb = s.fb := rfl
@[simp] theorem storeLoad_inputs (r : RowPair) (h : Handle) (s : State) : (storeLoad r h s).inputs = s.inputs := rfl

/-! ### storeRender -/

@[simp] theorem storeRender_cfg (p : Phase) (b : BankIx) (s : State) : (storeRender p b s).cfg = s.cfg := rfl
@[simp] theorem storeRender_rp (p : Phase) (b : BankIx) (s : State) : (storeRender p b s).rp = s.rp := rfl
@[simp] theorem storeRender_ph (p : Phase) (b : BankIx) (s : State) : (storeRender p b s).ph = s.ph := rfl
@[simp] theorem storeRender_ab (p : Phase) (b : BankIx) (s : State) : (storeRender p b s).ab = s.ab := rfl
@[simp] theorem storeRender_skip (p : Phase) (b : BankIx) (s : State) : (storeRender p b s).skip = s.skip := rfl
@[simp] theorem storeRender_fbref (p : Phase) (b : BankIx) (s : State) : (storeRender p b s).fbref = s.fbref := rfl
@[simp] theorem storeRender_fbframe (p : Phase) (b : BankIx) (s : State) : (storeRender p b s).fbframe = s.fbframe := rfl
@[simp] theorem storeRender_proto (p : Phase) (b : BankIx) (s : State) : (storeRender p b s).proto = s.proto := rfl
@[simp] theorem storeRender_rowaddr (p : Phase) (b : BankIx) (s : State) : (storeRender p b s).rowaddr = s.rowaddr := rfl
@[simp] theorem storeRender_rc (p : Phase) (b : BankIx) (s : State) : (storeRender p b s).rc = s.rc := rfl
@[simp] theorem storeRender_lb0 (p : Phase) (b : BankIx) (s : State) : (storeRender p b s).lb0 = if b = 0 then renderedBank s.cfg s.rc (effectiveBit p s.skip) else s.lb0 := rfl
@[simp] theorem storeRender_lb1 (p : Phase) (b : BankIx) (s : State) : (storeRender p b s).lb1 = if b = 0 then s.lb1 else renderedBank s.cfg s.rc (effectiveBit p s.skip) := rfl
@[simp] theorem storeRender_nLoad (p : Phase) (b : BankIx) (s : State) : (storeRender p b s).nLoad = s.nLoad := rfl
@[simp] theorem storeRender_nRender (p : Phase) (b : BankIx) (s : State) : (storeRender p b s).nRender = s.nRender + 1 := rfl
@[simp] theorem storeRender_clkRun (p : Phase) (b : BankIx) (s : State) : (storeRender p b s).clkRun = s.clkRun := rfl
@[simp] theorem storeRender_xfer (p : Phase) (b : BankIx) (s : State) : (storeRender p b s).xfer = s.xfer := rfl
@[simp] theorem storeRender_tcPend (p : Phase) (b : BankIx) (s : State) : (storeRender p b s).tcPend = s.tcPend := rfl
@[simp] theorem storeRender_pulse (p : Phase) (b : BankIx) (s : State) : (storeRender p b s).pulse = s.pulse := rfl
@[simp] theorem storeRender_pcPend (p : Phase) (b : BankIx) (s : State) : (storeRender p b s).pcPend = s.pcPend := rfl
@[simp] theorem storeRender_oeN (p : Phase) (b : BankIx) (s : State) : (storeRender p b s).oeN = s.oeN := rfl
@[simp] theorem storeRender_latched (p : Phase) (b : BankIx) (s : State) : (storeRender p b s).latched = s.latched := rfl
@[simp] theorem storeRender_dataLines (p : Phase) (b : BankIx) (s : State) : (storeRender p b s).dataLines = s.dataLines := rfl
@[simp] theorem storeRender_cmds (p : Phase) (b : BankIx) (s : State) : (storeRender p b s).cmds = s.cmds := rfl
@[simp] theorem storeRender_displays (p : Phase) (b : BankIx) (s : State) : (storeRender p b s).displays = s.displays := rfl
@[simp] theorem storeRender_fault (p : Phase) (b : BankIx) (s : State) : (storeRender p b s).fault = s.fault := rfl
@[simp] theorem storeRender_refused (p : Phase) (b : BankIx) (s : State) : (storeRender p b s).refused = s.refused := rfl
@[simp] theorem storeRender_fb (p : Phase) (b : BankIx) (s : State) : (storeRender p b s).fb = s.fb := rfl
@[simp] theorem storeRender_inputs (p : Phase) (b : BankIx) (s : State) : (storeRender p b s).inputs = s.inputs := rfl

/-! ### setProto -/

@[simp] theorem setProto_cfg (x : Proto) (s : State) : (setProto x s).cfg = s.cfg := rfl
@[simp] theorem setProto_rp (x : Proto) (s : State) : (setProto x s).rp = s.rp := rfl
@[simp] theorem setProto_ph (x : Proto) (s : State) : (setProto x s).ph = s.ph := rfl
@[simp] theorem setProto_ab (x : Proto) (s : State) : (setProto x s).ab = s.ab := rfl
@[simp] theorem setProto_skip (x : Proto) (s : State) : (setProto x s).skip = s.skip := rfl
@[simp] theorem setProto_fbref (x : Proto) (s : State) : (setProto x s).fbref = s.fbref := rfl
@[simp] theorem setProto_fbframe (x : Proto) (s : State) : (setProto x s).fbframe = s.fbframe := rfl
@[simp] theorem setProto_proto (x : Proto) (s : State) : (setProto x s).proto = x := rfl
@[simp] theorem setProto_rowaddr (x : Proto) (s : State) : (setProto x s).rowaddr = s.rowaddr := rfl
@[simp] theorem setProto_rc (x : Proto) (s : State) : (setProto x s).rc = s.rc := rfl
@[simp] theorem setProto_lb0 (x : Proto) (s : State) : (setProto x s).lb0 = s.lb0 := rfl
@[simp] theorem setProto_lb1 (x : Proto) (s : State) : (setProto x s).lb1 = s.lb1 := rfl
@[simp] theorem setProto_nLoad (x : Proto) (s : State) : (setProto x s).nLoad = s.nLoad := rfl
@[simp] theorem setProto_nRender (x : Proto) (s : State) : (setProto x s).nRender = s.nRender := rfl
@[simp] theorem setProto_clkRun (x : Proto) (s : State) : (setProto x s).clkRun = s.clkRun := rfl
@[simp] theorem setProto_xfer (x : Proto) (s : State) : (setProto x s).xfer = s.xfer := rfl
@[simp] theorem setProto_tcPend (x : Proto) (s : State) : (setProto x s).tcPend = s.tcPend := rfl
@[simp] theorem setProto_pulse (x : Proto) (s : State) : (setProto x s).pulse = s.pulse := rfl
@[simp] theorem setProto_pcPend (x : Proto) (s : State) : (setProto x s).pcPend = s.pcPend := rfl
@[simp] theorem setProto_oeN (x : Proto) (s : State) : (setProto x s).oeN = s.oeN := rfl
@[simp] theorem setProto_latched (x : Proto) (s : State) : (setProto x s).latched = s.latched := rfl
@[simp] theorem setProto_dataLines (x : Proto) (s : State) : (setProto x s).dataLines = s.dataLines := rfl
@[simp] theorem setProto_cmds (x : Proto) (s : State) : (setProto x s).cmds = s.cmds := rfl
@[simp] theorem setProto_displays (x : Proto) (s : State) : (setProto x s).displays = s.displays := rfl
@[simp] theorem setProto_fault (x : Proto) (s : State) : (setProto x s).fault = s.fault := rfl
@[simp] theorem setProto_refused (x : Proto) (s : State) : (setProto x s).refused = s.refused := rfl
@[simp] theorem setProto_fb (x : Proto) (s : State) : (setProto x s).fb = s.fb := rfl
@[simp] theorem setProto_inputs (x : Proto) (s : State) : (setProto x s).inputs = s.inputs := rfl

/-! ### setRowPair -/

@[simp] theorem setRowPair_cfg (x : RowPair) (s : State) : (setRowPair x s).cfg = s.cfg := rfl
@[simp] theorem setRowPair_rp (x : RowPair) (s : State) : (setRowPair x s).rp = x := rfl
@[simp] theorem setRowPair_ph (x : RowPair) (s : State) : (setRowPair x s).ph = s.ph := rfl
@[simp] theorem setRowPair_ab (x : RowPair) (s : State) : (setRowPair x s).ab = s.ab := rfl
@[simp] theorem setRowPair_skip (x : RowPair) (s : State) : (setRowPair x s).skip = s.skip := rfl
@[simp] theorem setRowPair_fbref (x : RowPair) (s : State) : (setRowPair x s).fbref = s.fbref := rfl
@[simp] theorem setRowPair_fbframe (x : RowPair) (s : State) : (setRowPair x s).fbframe = s.fbframe := rfl
@[simp] theorem setRowPair_proto (x : RowPair) (s : State) : (setRowPair x s).proto = s.proto := rfl
@[simp] theorem setRowPair_rowaddr (x : RowPair) (s : State) : (setRowPair x s).rowaddr = s.rowaddr := rfl
@[simp] theorem setRowPair_rc (x : RowPair) (s : State) : (setRowPair x s).rc = s.rc := rfl
@[simp] theorem setRowPair_lb0 (x : RowPair) (s : State) : (setRowPair x s).lb0 = s.lb0 := rfl
@[simp] theorem setRowPair_lb1 (x : RowPair) (s : State) : (setRowPair x s).lb1 = s.lb1 := rfl
@[simp] theorem setRowPair_nLoad (x : RowPair) (s : State) : (setRowPair x s).nLoad = s.nLoad := rfl
@[simp] theorem setRowPair_nRender (x : RowPair) (s : State) : (setRowPair x s).nRender = s.nRender := rfl
@[simp] theorem setRowPair_clkRun (x : RowPair) (s : State) : (setRowPair x s).clkRun = s.clkRun := rfl
@[simp] theorem setRowPair_xfer (x : RowPair) (s : State) : (setRowPair x s).xfer = s.xfer := rfl
@[simp] theorem setRowPair_tcPend (x : RowPair) (s : State) : (setRowPair x s).tcPend = s.tcPend := rfl
@[simp] theorem setRowPair_pulse (x : RowPair) (s : State) : (setRowPair x s).pulse = s.pulse := rfl
@[simp] theorem setRowPair_pcPend (x : RowPair) (s : State) : (setRowPair x s).pcPend = s.pcPend := rfl
@[simp] theorem setRowPair_oeN (x : RowPair) (s : State) : (setRowPair x s).oeN = s.oeN := rfl
@[simp] theorem setRowPair_latched (x : RowPair) (s : State) : (setRowPair x s).latched = s.latched := rfl
@[simp] theorem setRowPair_dataLines (x : RowPair) (s : State) : (setRowPair x s).dataLines = s.dataLines := rfl
@[simp] theorem setRowPair_cmds (x : RowPair) (s : State) : (setRowPair x s).cmds = s.cmds := rfl
@[simp] theorem setRowPair_displays (x : RowPair) (s : State) : (setRowPair x s).displays = s.displays := rfl
@[simp] theorem setRowPair_fault (x : RowPair) (s : State) : (setRowPair x s).fault = s.fault := rfl
@[simp] theorem setRowPair_refused (x : RowPair) (s : State) : (setRowPair x s).refused = s.refused := rfl
@[simp] theorem setRowPair_fb (x : RowPair) (s : State) : (setRowPair x s).fb = s.fb := rfl
@[simp] theorem setRowPair_inputs (x : RowPair) (s : State) : (setRowPair x s).inputs = s.inputs := rfl

/-! ### setPhase -/

@[simp] theorem setPhase_cfg (x : Phase) (s : State) : (setPhase x s).cfg = s.cfg := rfl
@[simp] theorem setPhase_rp (x : Phase) (s : State) : (setPhase x s).rp = s.rp := rfl
@[simp] theorem setPhase_ph (x : Phase) (s : State) : (setPhase x s).ph = x := rfl
@[simp] theorem setPhase_ab (x : Phase) (s : State) : (setPhase x s).ab = s.ab := rfl
@[simp] theorem setPhase_skip (x : Phase) (s : State) : (setPhase x s).skip = s.skip := rfl
@[simp] theorem setPhase_fbref (x : Phase) (s : State) : (setPhase x s).fbref = s.fbref := rfl
@[simp] theorem setPhase_fbframe (x : Phase) (s : State) : (setPhase x s).fbframe = s.fbframe := rfl
@[simp] theorem setPhase_proto (x : Phase) (s : State) : (setPhase x s).proto = s.proto := rfl
@[simp] theorem setPhase_rowaddr (x : Phase) (s : State) : (setPhase x s).rowaddr = s.rowaddr := rfl
@[simp] theorem setPhase_rc (x : Phase) (s : State) : (setPhase x s).rc = s.rc := rfl
@[simp] theorem setPhase_lb0 (x : Phase) (s : State) : (setPhase x s).lb0 = s.lb0 := rfl
@[simp] theorem setPhase_lb1 (x : Phase) (s : State) : (setPhase x s).lb1 = s.lb1 := rfl
@[simp] theorem setPhase_nLoad (x : Phase) (s : State) : (setPhase x s).nLoad = s.nLoad := rfl
@[simp] theorem setPhase_nRender (x : Phase) (s : State) : (setPhase x s).nRender = s.nRender := rfl
@[simp] theorem setPhase_clkRun (x : Phase) (s : State) : (setPhase x s).clkRun = s.clkRun := rfl
@[simp] theorem setPhase_xfer (x : Phase) (s : State) : (setPhase x s).xfer = s.xfer := rfl
@[simp] theorem setPhase_tcPend (x : Phase) (s : State) : (setPhase x s).tcPend = s.tcPend := rfl
@[simp] theorem setPhase_pulse (x : Phase) (s : State) : (setPhase x s).pulse = s.pulse := rfl
@[simp] theorem setPhase_pcPend (x : Phase) (s : State) : (setPhase x s).pcPend = s.pcPend := rfl
@[simp] theorem setPhase_oeN (x : Phase) (s : State) : (setPhase x s).oeN = s.oeN := rfl
@[simp] theorem setPhase_latched (x : Phase) (s : State) : (setPhase x s).latched = s.latched := rfl
@[simp] theorem setPhase_dataLines (x : Phase) (s : State) : (setPhase x s).dataLines = s.dataLines := rfl
@[simp] theorem setPhase_cmds (x : Phase) (s : State) : (setPhase x s).cmds = s.cmds := rfl
@[simp] theorem setPhase_displays (x : Phase) (s : State) : (setPhase x s).displays = s.displays := rfl
@[simp] theorem setPhase_fault (x : Phase) (s : State) : (setPhase x s).fault = s.fault := rfl
@[simp] theorem setPhase_refused (x : Phase) (s : State) : (setPhase x s).refused = s.refused := rfl
@[simp] theorem setPhase_fb (x : Phase) (s : State) : (setPhase x s).fb = s.fb := rfl
@[simp] theorem setPhase_inputs (x : Phase) (s : State) : (setPhase x s).inputs = s.inputs := rfl

/-! ### setActive -/

@[simp] theorem setActive_cfg (x : BankIx) (s : State) : (setActive x s).cfg = s.cfg := rfl
@[simp] theorem setActive_rp (x : BankIx) (s : State) : (setActive x s).rp = s.rp := rfl
@[simp] theorem setActive_ph (x : BankIx) (s : State) : (setActive x s).ph = s.ph := rfl
@[simp] theorem setActive_ab (x : BankIx) (s : State) : (setActive x s).ab = x := rfl
@[simp] theorem setActive_skip (x : BankIx) (s : State) : (setActive x s).skip = s.skip := rfl
@[simp] theorem setActive_fbref (x : BankIx) (s : State) : (setActive x s).fbref = s.fbref := rfl
@[simp] theorem setActive_fbframe (x : BankIx) (s : State) : (setActive x s).fbframe = s.fbframe := rfl
@[simp] theorem setActive_proto (x : BankIx) (s : State) : (setActive x s).proto = s.proto := rfl
@[simp] theorem setActive_rowaddr (x : BankIx) (s : State) : (setActive x s).rowaddr = s.rowaddr := rfl
@[simp] theorem setActive_rc (x : BankIx) (s : State) : (setActive x s).rc = s.rc := rfl
@[simp] theorem setActive_lb0 (x : BankIx) (s : State) : (setActive x s).lb0 = s.lb0 := rfl
@[simp] theorem setActive_lb1 (x : BankIx) (s : State) : (setActive x s).lb1 = s.lb1 := rfl
@[simp] theorem setActive_nLoad (x : BankIx) (s : State) : (setActive x s).nLoad = s.nLoad := rfl
@[simp] theorem setActive_nRender (x : BankIx) (s : State) : (setActive x s).nRender = s.nRender := rfl
@[simp] theorem setActive_clkRun (x : BankIx) (s : State) : (setActive x s).clkRun = s.clkRun := rfl
@[simp] theorem setActive_xfer (x : BankIx) (s : State) : (setActive x s).xfer = s.xfer := rfl
@[simp] theorem setActive_tcPend (x : BankIx) (s : State) : (setActive x s).tcPend = s.tcPend := rfl
@[simp] theorem setActive_pulse (x : BankIx) (s : State) : (setActive x s).pulse = s.pulse := rfl
@[simp] theorem setActive_pcPend (x : BankIx) (s : State) : (setActive x s).pcPend = s.pcPend := rfl
@[simp] theorem setActive_oeN (x : BankIx) (s : State) : (setActive x s).oeN = s.oeN := rfl
@[simp] theorem setActive_latched (x : BankIx) (s : State) : (setActive x s).latched = s.latched := rfl
@[simp] theorem setActive_dataLines (x : BankIx) (s : State) : (setActive x s).dataLines = s.dataLines := rfl
@[simp] theorem setActive_cmds (x : BankIx) (s : State) : (setActive x s).cmds = s.cmds := rfl
@[simp] theorem setActive_displays (x : BankIx) (s : State) : (setActive x s).displays = s.displays := rfl
@[simp] theorem setActive_fault (x : BankIx) (s : State) : (setActive x s).fault = s.fault := rfl
@[simp] theorem setActive_refused (x : BankIx) (s : State) : (setActive x s).refused = s.refused := rfl
@[simp] theorem setActive_fb (x : BankIx) (s : State) : (setActive x s).fb = s.fb := rfl
@[simp] theorem setActive_inputs (x : BankIx) (s : State) : (setActive x s).inputs = s.inputs := rfl

/-! ### raiseTransferDone -/

@[simp] theorem raiseTransferDone_cfg (s : State) : (raiseTransferDone s).cfg = s.cfg := rfl
@[simp] theorem raiseTransferDone_rp (s : State) : (raiseTransferDone s).rp = s.rp := rfl
@[simp] theorem raiseTransferDone_ph (s : State) : (raiseTransferDone s).ph = s.ph := rfl
@[simp] theorem raiseTransferDone_ab (s : State) : (raiseTransferDone s).ab = s.ab := rfl
@[simp] theorem raiseTransferDone_skip (s : State) : (raiseTransferDone s).skip = s.skip := rfl
@[simp] theorem raiseTransferDone_fbref (s : State) : (raiseTransferDone s).fbref = s.fbref := rfl
@[simp] theorem raiseTransferDone_fbframe (s : State) : (raiseTransferDone s).fbframe = s.fbframe := rfl
@[simp] theorem raiseTransferDone_proto (s : State) : (raiseTransferDone s).proto = s.proto := rfl
@[simp] theorem raiseTransferDone_rowaddr (s : State) : (raiseTransferDone s).rowaddr = s.rowaddr := rfl
@[simp] theorem raiseTransferDone_rc (s : State) : (raiseTransferDone s).rc = s.rc := rfl
@[simp] theorem raiseTransferDone_lb0 (s : State) : (raiseTransferDone s).lb0 = s.lb0 := rfl
@[simp] theorem raiseTransferDone_lb1 (s : State) : (raiseTransferDone s).lb1 = s.lb1 := rfl
@[simp] theorem raiseTransferDone_nLoad (s : State) : (raiseTransferDone s).nLoad = s.nLoad := rfl
@[simp] theorem raiseTransferDone_nRender (s : State) : (raiseTransferDone s).nRender = s.nRender := rfl
@[simp] theorem raiseTransferDone_clkRun (s : State) : (raiseTransferDone s).clkRun = s.clkRun := rfl
@[simp] theorem raiseTransferDone_xfer (s : State) : (raiseTransferDone s).xfer = s.xfer := rfl
@[simp] theorem raiseTransferDone_tcPend (s : State) : (raiseTransferDone s).tcPend = true := rfl
@[simp] theorem raiseTransferDone_pulse (s : State) : (raiseTransferDone s).pulse = s.pulse := rfl
@[simp] theorem raiseTransferDone_pcPend (s : State) : (raiseTransferDone s).pcPend = s.pcPend := rfl
@[simp] theorem raiseTransferDone_oeN (s : State) : (raiseTransferDone s).oeN = s.oeN := rfl
@[simp] theorem raiseTransferDone_latched (s : State) : (raiseTransferDone s).latched = s.latched := rfl
@[simp] theorem raiseTransferDone_dataLines (s : State) : (raiseTransferDone s).dataLines = s.dataLines := rfl
@[simp] theorem raiseTransferDone_cmds (s : State) : (raiseTransferDone s).cmds = s.cmds := rfl
@[simp] theorem raiseTransferDone_displays (s : State) : (raiseTransferDone s).displays = s.displays := rfl
@[simp] theorem raiseTransferDone_fault (s : State) : (raiseTransferDone s).fault = s.fault := rfl
@[simp] theorem raiseTransferDone_refused (s : State) : (raiseTransferDone s).refused = s.refused := rfl
@[simp] theorem raiseTransferDone_fb (s : State) : (raiseTransferDone s).fb = s.fb := rfl
@[simp] theorem raiseTransferDone_inputs (s : State) : (raiseTransferDone s).inputs = s.inputs := rfl

/-! ### clearTransferDone -/

@[simp] theorem clearTransferDone_cfg (s : State) : (clearTransferDone s).cfg = s.cfg := rfl
@[simp] theorem clearTransferDone_rp (s : State) : (clearTransferDone s).rp = s.rp := rfl
@[simp] theorem clearTransferDone_ph (s : State) : (clearTransferDone s).ph = s.ph := rfl
@[simp] theorem clearTransferDone_ab (s : State) : (clearTransferDone s).ab = s.ab := rfl
@[simp] theorem clearTransferDone_skip (s : State) : (clearTransferDone s).skip = s.skip := rfl
@[simp] theorem clearTransferDone_fbref (s : State) : (clearTransferDone s).fbref = s.fbref := rfl
@[simp] theorem clearTransferDone_fbframe (s : State) : (clearTransferDone s).fbframe = s.fbframe := rfl
@[simp] theorem clearTransferDone_proto (s : State) : (clearTransferDone s).proto = s.proto := rfl
@[simp] theorem clearTransferDone_rowaddr (s : State) : (clearTransferDone s).rowaddr = s.rowaddr := rfl
@[simp] theorem clearTransferDone_rc (s : State) : (clearTransferDone s).rc = s.rc := rfl
@[simp] theorem clearTransferDone_lb0 (s : State) : (clearTransferDone s).lb0 = s.lb0 := rfl
@[simp] theorem clearTransferDone_lb1 (s : State) : (clearTransferDone s).lb1 = s.lb1 := rfl
@[simp] theorem clearTransferDone_nLoad (s : State) : (clearTransferDone s).nLoad = s.nLoad := rfl
@[simp] theorem clearTransferDone_nRender (s : State) : (clearTransferDone s).nRender = s.nRender := rfl
@[simp] theorem clearTransferDone_clkRun (s : State) : (clearTransferDone s).clkRun = s.clkRun := rfl
@[simp] theorem clearTransferDone_xfer (s : State) : (clearTransferDone s).xfer = s.xfer := rfl
@[simp] theorem clearTransferDone_tcPend (s : State) : (clearTransferDone s).tcPend = false := rfl
@[simp] theorem clearTransferDone_pulse (s : State) : (clearTransferDone s).pulse = s.pulse := rfl
@[simp] theorem clearTransferDone_pcPend (s : State) : (clearTransferDone s).pcPend = s.pcPend := rfl
@[simp] theorem clearTransferDone_oeN (s : State) : (clearTransferDone s).oeN = s.oeN := rfl
@[simp] theorem clearTransferDone_latched (s : State) : (clearTransferDone s).latched = s.latched := rfl
@[simp] theorem clearTransferDone_dataLines (s : State) : (clearTransferDone s).dataLines = s.dataLines := rfl
@[simp] theorem clearTransferDone_cmds (s : State) : (clearTransferDone s).cmds = s.cmds := rfl
@[simp] theorem clearTransferDone_displays (s : State) : (clearTransferDone s).displays = s.displays := rfl
@[simp] theorem clearTransferDone_fault (s : State) : (clearTransferDone s).fault = s.fault := rfl
@[simp] theorem clearTransferDone_refused (s : State) : (clearTransferDone s).refused = s.refused := rfl
@[simp] theorem clearTransferDone_fb (s : State) : (clearTransferDone s).fb = s.fb := rfl
@[simp] theorem clearTransferDone_inputs (s : State) : (clearTransferDone s).inputs = s.inputs := rfl

/-! ### raisePulseDone -/

@[simp] theorem raisePulseDone_cfg (s : State) : (raisePulseDone s).cfg = s.cfg := rfl
@[simp] theorem raisePulseDone_rp (s : State) : (raisePulseDone s).rp = s.rp := rfl
@[simp] theorem raisePulseDone_ph (s : State) : (raisePulseDone s).ph = s.ph := rfl
@[simp] theorem raisePulseDone_ab (s : State) : (raisePulseDone s).ab = s.ab := rfl
@[simp] theorem raisePulseDone_skip (s : State) : (raisePulseDone s).skip = s.skip := rfl
@[simp] theorem raisePulseDone_fbref (s : State) : (raisePulseDone s).fbref = s.fbref := rfl
@[simp] theorem raisePulseDone_fbframe (s : State) : (raisePulseDone s).fbframe = s.fbframe := rfl
@[simp] theorem raisePulseDone_proto (s : State) : (raisePulseDone s).proto = s.proto := rfl
@[simp] theorem raisePulseDone_rowaddr (s : State) : (raisePulseDone s).rowaddr = s.rowaddr := rfl
@[simp] theorem raisePulseDone_rc (s : State) : (raisePulseDone s).rc = s.rc := rfl
@[simp] theorem raisePulseDone_lb0 (s : State) : (raisePulseDone s).lb0 = s.lb0 := rfl
@[simp] theorem raisePulseDone_lb1 (s : State) : (raisePulseDone s).lb1 = s.lb1 := rfl
@[simp] theorem raisePulseDone_nLoad (s : State) : (raisePulseDone s).nLoad = s.nLoad := rfl
@[simp] theorem raisePulseDone_nRender (s : State) : (raisePulseDone s).nRender = s.nRender := rfl
@[simp] theorem raisePulseDone_clkRun (s : State) : (raisePulseDone s).clkRun = s.clkRun := rfl
@[simp] theorem raisePulseDone_xfer (s : State) : (raisePulseDone s).xfer = s.xfer := rfl
@[simp] theorem raisePulseDone_tcPend (s : State) : (raisePulseDone s).tcPend = s.tcPend := rfl
@[simp] theorem raisePulseDone_pulse (s : State) : (raisePulseDone s).pulse = s.pulse := rfl
@[simp] theorem raisePulseDone_pcPend (s : State) : (raisePulseDone s).pcPend = true := rfl
@[simp] theorem raisePulseDone_oeN (s : State) : (raisePulseDone s).oeN = s.oeN := rfl
@[simp] theorem raisePulseDone_latched (s : State) : (raisePulseDone s).latched = s.latched := rfl
@[simp] theorem raisePulseDone_dataLines (s : State) : (raisePulseDone s).dataLines = s.dataLines := rfl
@[simp] theorem raisePulseDone_cmds (s : State) : (raisePulseDone s).cmds = s.cmds := rfl
@[simp] theorem raisePulseDone_displays (s : State) : (raisePulseDone s).displays = s.displays := rfl
@[simp] theorem raisePulseDone_fault (s : State) : (raisePulseDone s).fault = s.fault := rfl
@[simp] theorem raisePulseDone_refused (s : State) : (raisePulseDone s).refused = s.refused := rfl
@[simp] theorem raisePulseDone_fb (s : State) : (raisePulseDone s).fb = s.fb := rfl
@[simp] theorem raisePulseDone_inputs (s : State) : (raisePulseDone s).inputs = s.inputs := rfl

/-! ### clearPulseDone -/

@[simp] theorem clearPulseDone_cfg (s : State) : (clearPulseDone s).cfg = s.cfg := rfl
@[simp] theorem clearPulseDone_rp (s : State) : (clearPulseDone s).rp = s.rp := rfl
@[simp] theorem clearPulseDone_ph (s : State) : (clearPulseDone s).ph = s.ph := rfl
@[simp] theorem clearPulseDone_ab (s : State) : (clearPulseDone s).ab = s.ab := rfl
@[simp] theorem clearPulseDone_skip (s : State) : (clearPulseDone s).skip = s.skip := rfl
@[simp] theorem clearPulseDone_fbref (s : State) : (clearPulseDone s).fbref = s.fbref := rfl
@[simp] theorem clearPulseDone_fbframe (s : State) : (clearPulseDone s).fbframe = s.fbframe := rfl
@[simp] theorem clearPulseDone_proto (s : State) : (clearPulseDone s).proto = s.proto := rfl
@[simp] theorem clearPulseDone_rowaddr (s : State) : (clearPulseDone s).rowaddr = s.rowaddr := rfl
@[simp] theorem clearPulseDone_rc (s : State) : (clearPulseDone s).rc = s.rc := rfl
@[simp] theorem clearPulseDone_lb0 (s : State) : (clearPulseDone s).lb0 = s.lb0 := rfl
@[simp] theorem clearPulseDone_lb1 (s : State) : (clearPulseDone s).lb1 = s.lb1 := rfl
@[simp] theorem clearPulseDone_nLoad (s : State) : (clearPulseDone s).nLoad = s.nLoad := rfl
@[simp] theorem clearPulseDone_nRender (s : State) : (clearPulseDone s).nRender = s.nRender := rfl
@[simp] theorem clearPulseDone_clkRun (s : State) : (clearPulseDone s).clkRun = s.clkRun := rfl
@[simp] theorem clearPulseDone_xfer (s : State) : (clearPulseDone s).xfer = s.xfer := rfl
@[simp] theorem clearPulseDone_tcPend (s : State) : (clearPulseDone s).tcPend = s.tcPend := rfl
@[simp] theorem clearPulseDone_pulse (s : State) : (clearPulseDone s).pulse = s.pulse := rfl
@[simp] theorem clearPulseDone_pcPend (s : State) : (clearPulseDone s).pcPend = false := rfl
@[simp] theorem clearPulseDone_oeN (s : State) : (clearPulseDone s).oeN = s.oeN := rfl
@[simp] theorem clearPulseDone_latched (s : State) : (clearPulseDone s).latched = s.latched := rfl
@[simp] theorem clearPulseDone_dataLines (s : State) : (clearPulseDone s).dataLines = s.dataLines := rfl
@[simp] theorem clearPulseDone_cmds (s : State) : (clearPulseDone s).cmds = s.cmds := rfl
@[simp] theorem clearPulseDone_displays (s : State) : (clearPulseDone s).displays = s.displays := rfl
@[simp] theorem clearPulseDone_fault (s : State) : (clearPulseDone s).fault = s.fault := rfl
@[simp] theorem clearPulseDone_refused (s : State) : (clearPulseDone s).refused = s.refused := rfl
@[simp] theorem clearPulseDone_fb (s : State) : (clearPulseDone s).fb = s.fb := rfl
@[simp] theorem clearPulseDone_inputs (s : State) : (clearPulseDone s).inputs = s.inputs := rfl

/-! ### beginPulse -/

@[simp] theorem beginPulse_cfg (d : Ticks) (s : State) : (beginPulse d s).cfg = s.cfg := rfl
@[simp] theorem beginPulse_rp (d : Ticks) (s : State) : (beginPulse d s).rp = s.rp := rfl
@[simp] theorem beginPulse_ph (d : Ticks) (s : State) : (beginPulse d s).ph = s.ph := rfl
@[simp] theorem beginPulse_ab (d : Ticks) (s : State) : (beginPulse d s).ab = s.ab := rfl
@[simp] theorem beginPulse_skip (d : Ticks) (s : State) : (beginPulse d s).skip = s.skip := rfl
@[simp] theorem beginPulse_fbref (d : Ticks) (s : State) : (beginPulse d s).fbref = s.fbref := rfl
@[simp] theorem beginPulse_fbframe (d : Ticks) (s : State) : (beginPulse d s).fbframe = s.fbframe := rfl
@[simp] theorem beginPulse_proto (d : Ticks) (s : State) : (beginPulse d s).proto = s.proto := rfl
@[simp] theorem beginPulse_rowaddr (d : Ticks) (s : State) : (beginPulse d s).rowaddr = s.rowaddr := rfl
@[simp] theorem beginPulse_rc (d : Ticks) (s : State) : (beginPulse d s).rc = s.rc := rfl
@[simp] theorem beginPulse_lb0 (d : Ticks) (s : State) : (beginPulse d s).lb0 = s.lb0 := rfl
@[simp] theorem beginPulse_lb1 (d : Ticks) (s : State) : (beginPulse d s).lb1 = s.lb1 := rfl
@[simp] theorem beginPulse_nLoad (d : Ticks) (s : State) : (beginPulse d s).nLoad = s.nLoad := rfl
@[simp] theorem beginPulse_nRender (d : Ticks) (s : State) : (beginPulse d s).nRender = s.nRender := rfl
@[simp] theorem beginPulse_clkRun (d : Ticks) (s : State) : (beginPulse d s).clkRun = s.clkRun := rfl
@[simp] theorem beginPulse_xfer (d : Ticks) (s : State) : (beginPulse d s).xfer = s.xfer := rfl
@[simp] theorem beginPulse_tcPend (d : Ticks) (s : State) : (beginPulse d s).tcPend = s.tcPend := rfl
@[simp] theorem beginPulse_pulse (d : Ticks) (s : State) : (beginPulse d s).pulse = some d := rfl
@[simp] theorem beginPulse_pcPend (d : Ticks) (s : State) : (beginPulse d s).pcPend = s.pcPend := rfl
@[simp] theorem beginPulse_oeN (d : Ticks) (s : State) : (beginPulse d s).oeN = 0 := rfl
@[simp] theorem beginPulse_latched (d : Ticks) (s : State) : (beginPulse d s).latched = s.latched := rfl
@[simp] theorem beginPulse_dataLines (d : Ticks) (s : State) : (beginPulse d s).dataLines = s.dataLines := rfl
@[simp] theorem beginPulse_cmds (d : Ticks) (s : State) : (beginPulse d s).cmds = s.cmds := rfl
@[simp] theorem beginPulse_displays (d : Ticks) (s : State) : (beginPulse d s).displays = s.displays := rfl
@[simp] theorem beginPulse_fault (d : Ticks) (s : State) : (beginPulse d s).fault = s.fault := rfl
@[simp] theorem beginPulse_refused (d : Ticks) (s : State) : (beginPulse d s).refused = s.refused := rfl
@[simp] theorem beginPulse_fb (d : Ticks) (s : State) : (beginPulse d s).fb = s.fb := rfl
@[simp] theorem beginPulse_inputs (d : Ticks) (s : State) : (beginPulse d s).inputs = s.inputs := rfl

/-! ### endPulse -/

@[simp] theorem endPulse_cfg (s : State) : (endPulse s).cfg = s.cfg := rfl
@[simp] theorem endPulse_rp (s : State) : (endPulse s).rp = s.rp := rfl
@[simp] theorem endPulse_ph (s : State) : (endPulse s).ph = s.ph := rfl
@[simp] theorem endPulse_ab (s : State) : (endPulse s).ab = s.ab := rfl
@[simp] theorem endPulse_skip (s : State) : (endPulse s).skip = s.skip := rfl
@[simp] theorem endPulse_fbref (s : State) : (endPulse s).fbref = s.fbref := rfl
@[simp] theorem endPulse_fbframe (s : State) : (endPulse s).fbframe = s.fbframe := rfl
@[simp] theorem endPulse_proto (s : State) : (endPulse s).proto = s.proto := rfl
@[simp] theorem endPulse_rowaddr (s : State) : (endPulse s).rowaddr = s.rowaddr := rfl
@[simp] theorem endPulse_rc (s : State) : (endPulse s).rc = s.rc := rfl
@[simp] theorem endPulse_lb0 (s : State) : (endPulse s).lb0 = s.lb0 := rfl
@[simp] theorem endPulse_lb1 (s : State) : (endPulse s).lb1 = s.lb1 := rfl
@[simp] theorem endPulse_nLoad (s : State) : (endPulse s).nLoad = s.nLoad := rfl
@[simp] theorem endPulse_nRender (s : State) : (endPulse s).nRender = s.nRender := rfl
@[simp] theorem endPulse_clkRun (s : State) : (endPulse s).clkRun = s.clkRun := rfl
@[simp] theorem endPulse_xfer (s : State) : (endPulse s).xfer = s.xfer := rfl
@[simp] theorem endPulse_tcPend (s : State) : (endPulse s).tcPend = s.tcPend := rfl
@[simp] theorem endPulse_pulse (s : State) : (endPulse s).pulse = none := rfl
@[simp] theorem endPulse_pcPend (s : State) : (endPulse s).pcPend = s.pcPend := rfl
@[simp] theorem endPulse_oeN (s : State) : (endPulse s).oeN = 1 := rfl
@[simp] theorem endPulse_latched (s : State) : (endPulse s).latched = s.latched := rfl
@[simp] theorem endPulse_dataLines (s : State) : (endPulse s).dataLines = s.dataLines := rfl
@[simp] theorem endPulse_cmds (s : State) : (endPulse s).cmds = s.cmds := rfl
@[simp] theorem endPulse_displays (s : State) : (endPulse s).displays = s.displays := rfl
@[simp] theorem endPulse_fault (s : State) : (endPulse s).fault = s.fault := rfl
@[simp] theorem endPulse_refused (s : State) : (endPulse s).refused = s.refused := rfl
@[simp] theorem endPulse_fb (s : State) : (endPulse s).fb = s.fb := rfl
@[simp] theorem endPulse_inputs (s : State) : (endPulse s).inputs = s.inputs := rfl

/-! ### Values that read a few fields -/

/-- A bank depends on the two banks only. -/
theorem bank_congr {s t : State} (h0 : t.lb0 = s.lb0) (h1 : t.lb1 = s.lb1) (b : BankIx) : t.bank b = s.bank b := by
  simp [State.bank, h0, h1]

/-- The handle that a load reads depends on the configuration, `fbref` and `fbframe` only. -/
theorem loadHandle_congr {r : RowPair} {s t : State} (hc : t.cfg = s.cfg) (hr : t.fbref = s.fbref)
    (hf : t.fbframe = s.fbframe) : loadHandle r t = loadHandle r s := by
  simp [loadHandle, latchedFrame, hc, hr, hf]

/-- The handle that a load reads, written out (R71). -/
theorem loadHandle_eq (r : RowPair) (s : State) :
    loadHandle r s =
      (if s.cfg.fbLatchAtFrame = true then (if r = 0 then s.fbref else s.fbframe) else s.fbref) := by
  unfold loadHandle latchedFrame
  by_cases hl : s.cfg.fbLatchAtFrame = true <;> simp [hl]

end Sys2Proof.Machine
end

