-- ==== Sys2Proof/Laws/Ops.lean ====
section
/-! SUPPORT. What each shared operation can do, once: the provers cite these and do not unfold the operations. -/

namespace Sys2Proof.Machine

/-! ### Steps that may fault -/

@[simp] theorem commit_ok (s t : State) : commit s (.ok t) = .next t := rfl

@[simp] theorem commit_error (s : State) (f : FaultRecord) : commit s (.error f) = .next (raiseFault f s) := rfl

/-- An operation ends in a next state: its own, or the old one with the fault mark (R110). -/
theorem commit_cases {s t : State} {r : Except FaultRecord State} (h : commit s r = .next t) :
    r = .ok t ∨ ∃ f, r = .error f ∧ t = raiseFault f s := by
  cases r with
  | ok u => exact .inl (by simpa using h)
  | error f => exact .inr ⟨f, rfl, by simpa using h.symm⟩

/-- A sequence of two operations succeeds exactly when both do. -/
theorem bind_eq_ok_iff {r : Except FaultRecord State} {f : State → Except FaultRecord State} {t : State} :
    (r >>= f) = .ok t ↔ ∃ u, r = .ok u ∧ f u = .ok t := by
  cases r with
  | ok u => exact ⟨fun h => ⟨u, rfl, h⟩, fun ⟨_, h1, h2⟩ => by cases h1; exact h2⟩
  | error e => exact ⟨fun h => (nomatch h), fun ⟨_, h1, _⟩ => (nomatch h1)⟩

@[simp] theorem ok_bind_op (s : State) (f : State → Except FaultRecord State) : (Except.ok s >>= f) = f s := rfl

@[simp] theorem error_bind_op (e : FaultRecord) (f : State → Except FaultRecord State) :
    ((Except.error e : Except FaultRecord State) >>= f) = .error e := rfl

/-! ### The row-cache load (R71) -/

theorem loadRowCache_some {r : RowPair} {s : State} {h : Handle} (hh : loadHandle r s = some h) :
    loadRowCache r s = .ok (storeLoad r h s) := by
  simp [loadRowCache, hh]

theorem loadRowCache_none {r : RowPair} {s : State} (hh : loadHandle r s = none) :
    loadRowCache r s = .error (.noFramebuffer r) := by
  simp [loadRowCache, hh]

/-- All that a load can do. -/
theorem loadRowCache_cases (r : RowPair) (s : State) :
    (loadHandle r s = none ∧ loadRowCache r s = .error (.noFramebuffer r)) ∨
    ∃ h, loadHandle r s = some h ∧ loadRowCache r s = .ok (storeLoad r h s) := by
  cases hh : loadHandle r s with
  | none => exact .inl ⟨rfl, loadRowCache_none hh⟩
  | some h => exact .inr ⟨h, rfl, loadRowCache_some hh⟩

/-! ### The phase render (R74) -/

theorem renderPhase_full {p : Phase} {b : BankIx} {s : State} (h : firstUnwritten s.rc = none) :
    renderPhase p b s = .ok (storeRender p b s) := by
  simp [renderPhase, h]

@[simp] theorem bank_setProto (x : Proto) (b : BankIx) (s : State) : (setProto x s).bank b = s.bank b := rfl

/-- The bank that a render writes (R74). -/
@[simp] theorem bank_storeRender_same (p : Phase) (b : BankIx) (s : State) :
    (storeRender p b s).bank b = renderedBank s.cfg s.rc (effectiveBit p s.skip) :=
  bank_setBank_same b _ s

/-- A render leaves the other bank alone (R46). -/
theorem bank_storeRender_other {p : Phase} {b b' : BankIx} {s : State} (h : b' ≠ b) :
    (storeRender p b s).bank b' = s.bank b' :=
  bank_setBank_other _ s h

/-- All that a render can do. -/
theorem renderPhase_cases (p : Phase) (b : BankIx) (s : State) :
    (∃ c k, firstUnwritten s.rc = some (c, k) ∧ renderPhase p b s = .error (.unwritten c k)) ∨
    (firstUnwritten s.rc = none ∧ renderPhase p b s = .ok (storeRender p b s)) := by
  cases h : firstUnwritten s.rc with
  | none => exact .inr ⟨rfl, renderPhase_full h⟩
  | some ck => exact .inl ⟨ck.1, ck.2, rfl, by simp [renderPhase, h]⟩

/-! ### Commands (R96 to R102) -/

theorem armPulse_free {d : Ticks} {s : State} (h : s.pulse = none) :
    armPulse d s = .ok (recordDisplay d (beginPulse d s)) := by
  simp [armPulse, h]

theorem armPulse_busy {d e : Ticks} {s : State} (h : s.pulse = some e) :
    armPulse d s = .error (.collabBusy (encodeCommand (.armPulse d))) := by
  simp [armPulse, h]

theorem startTransfer_free {b : BankIx} {s : State} (h : s.xfer = none) (hb : firstMissingByte (s.bank b) = none) :
    startTransfer b s = .ok (setTransfer (some ⟨b, bankBytes (s.bank b), 0⟩) s) := by
  simp [startTransfer, h, hb]

theorem startTransfer_busy {b : BankIx} {s : State} {t : Transfer} (h : s.xfer = some t) :
    startTransfer b s = .error (.collabBusy (encodeCommand (.startTransfer b))) := by
  simp [startTransfer, h]

@[simp] theorem applyCommand_ackTransfer (s : State) : applyCommand .ackTransfer s = .ok (clearTransferDone s) := rfl

@[simp] theorem applyCommand_ackPulse (s : State) : applyCommand .ackPulse s = .ok (clearPulseDone s) := rfl

@[simp] theorem applyCommand_armPulse (d : Ticks) (s : State) : applyCommand (.armPulse d) s = armPulse d s := rfl

@[simp] theorem applyCommand_stopClock (s : State) : applyCommand .stopClock s = .ok (setClock false s) := rfl

@[simp] theorem applyCommand_startClock (s : State) : applyCommand .startClock s = .ok (setClock true s) := rfl

@[simp] theorem applyCommand_startTransfer (b : BankIx) (s : State) :
    applyCommand (.startTransfer b) s = startTransfer b s := rfl

@[simp] theorem applyCommand_setRow (r : RowPair) (s : State) : applyCommand (.setRow r) s = .ok (setRowaddr r s) := rfl

@[simp] theorem applyCommand_gammaResult (v : Drive) (s : State) : applyCommand (.gammaResult v) s = .ok s := rfl

@[simp] theorem openEffect_ackTransfer (s : State) : openEffect .ackTransfer s = s := rfl

@[simp] theorem openEffect_ackPulse (s : State) : openEffect .ackPulse s = s := rfl

@[simp] theorem openEffect_armPulse (d : Ticks) (s : State) : openEffect (.armPulse d) s = s := rfl

@[simp] theorem openEffect_stopClock (s : State) : openEffect .stopClock s = s := rfl

@[simp] theorem openEffect_startClock (s : State) : openEffect .startClock s = s := rfl

@[simp] theorem openEffect_startTransfer (b : BankIx) (s : State) : openEffect (.startTransfer b) s = s := rfl

@[simp] theorem openEffect_setRow (r : RowPair) (s : State) : openEffect (.setRow r) s = setRowaddr r s := rfl

@[simp] theorem openEffect_gammaResult (v : Drive) (s : State) : openEffect (.gammaResult v) s = s := rfl

/-- Open use only records a command, but for `rowaddr` (R16, D16). -/
theorem emit_open {s : State} (c : Command) (h : s.cfg.use = .openUse) : emit c s = .ok (openEffect c (record c s)) := by
  simp [emit, h]

/-- Closed use also applies it (D16). -/
theorem emit_closed {s : State} (c : Command) (h : s.cfg.use = .closedUse) : emit c s = applyCommand c (record c s) := by
  simp [emit, h, deliver]

/-- A command's own frame: what no command touches, if it takes effect. -/
theorem applyCommand_frame {c : Command} {s t : State} (h : applyCommand c s = .ok t) :
    t = { s with rowaddr := t.rowaddr, clkRun := t.clkRun, xfer := t.xfer, tcPend := t.tcPend, pulse := t.pulse,
                 pcPend := t.pcPend, oeN := t.oeN, displays := t.displays } := by
  cases c with
  | armPulse d =>
    simp only [applyCommand, armPulse] at h
    split at h
    · cases h
    · cases h; rfl
  | startTransfer b =>
    simp only [applyCommand, startTransfer] at h
    split at h
    · cases h
    · split at h
      · cases h
      · cases h; rfl
  | ackTransfer => cases h; rfl
  | ackPulse => cases h; rfl
  | stopClock => cases h; rfl
  | startClock => cases h; rfl
  | setRow r => cases h; rfl
  | gammaResult v => cases h; rfl

/-- An emission's frame: the command list, the row address and the collaborators' state, and nothing else. -/
theorem emit_frame {c : Command} {s t : State} (h : emit c s = .ok t) :
    t = { s with rowaddr := t.rowaddr, clkRun := t.clkRun, xfer := t.xfer, tcPend := t.tcPend, pulse := t.pulse,
                 pcPend := t.pcPend, oeN := t.oeN, displays := t.displays, cmds := s.cmds ++ [encodeCommand c] } := by
  cases hu : s.cfg.use with
  | openUse =>
    rw [emit_open c hu] at h
    cases c <;> cases h <;> rfl
  | closedUse =>
    rw [emit_closed c hu] at h
    exact applyCommand_frame h

/-! ### The scheduler's branches (R81, R84) -/

theorem prevPhase_zero : prevPhase 0 = 9 := rfl

theorem prevPhase_of_ne {ph : Phase} (h : ph ≠ 0) : prevPhase ph = ph - 1 := if_neg h

theorem reloadIfPending_of_ne {s : State} (h : s.ph ≠ 0) : reloadIfPending s = .ok s := if_neg h

/-- The reload in a state `u` that agrees with `s` in what the load reads: the emissions before it do not matter. -/
theorem reloadIfPending_pending {u s : State} {h : Handle} (hp : u.ph = 0) (hc : u.cfg = s.cfg) (hr : u.rp = s.rp)
    (hf : u.fbref = s.fbref) (hff : u.fbframe = s.fbframe) (hh : loadHandle (s.rp + 1) s = some h) :
    reloadIfPending u =
      .ok (storeRender 0 u.ab (setPhase 0 (storeLoad (s.rp + 1) h (setRowPair (s.rp + 1) (setPhase 9 u))))) := by
  have hh' : loadHandle (s.rp + 1) (setRowPair (s.rp + 1) (setPhase 9 u)) = some h :=
    (loadHandle_congr hc hf hff).trans hh
  rw [reloadIfPending, if_pos hp, deferredReload, hr, loadRowCache_some hh', ok_bind_op, renderPhase_full (by simp)]
  simp

theorem reloadIfPending_none {u s : State} (hp : u.ph = 0) (hc : u.cfg = s.cfg) (hr : u.rp = s.rp)
    (hf : u.fbref = s.fbref) (hff : u.fbframe = s.fbframe) (hh : loadHandle (s.rp + 1) s = none) :
    reloadIfPending u = .error (.noFramebuffer (s.rp + 1)) := by
  have hh' : loadHandle (s.rp + 1) (setRowPair (s.rp + 1) (setPhase 9 u)) = none :=
    (loadHandle_congr hc hf hff).trans hh
  rw [reloadIfPending, if_pos hp, deferredReload, hr, loadRowCache_none hh', error_bind_op]

theorem advancePhase_render {s : State} (hp : s.ph.toNat < 9) (hc : firstUnwritten s.rc = none) :
    advancePhase s = .ok (storeRender (s.ph + 1) s.ab (setPhase (s.ph + 1) s)) := by
  rw [advancePhase, if_pos (show s.ph < 9 from hp), renderPhase_full (by simpa using hc)]

theorem advancePhase_last {s : State} (hp : 9 ≤ s.ph.toNat) : advancePhase s = .ok (setPhase 0 s) :=
  if_neg (show ¬ s.ph.toNat < 9 from Nat.not_lt.2 hp)

/-! ### Fetching (R110, R111) -/

theorem fetch_ready {s : State} (h1 : s.fault = none) (h2 : s.refused = none) (h3 : configRefusal s.cfg = none) :
    fetch s = fetchInput s := by
  simp [fetch, h1, h2, h3]

/-- A word that names an instruction is run, and the schedule moves on by one entry. -/
theorem fetchInput_word {s : State} {w : PortWord} {rest : List Input} {i : Instr} (h : s.inputs = .word w :: rest)
    (hd : decode w = .ok i) : fetchInput s = .run i { s with inputs := rest } := by
  simp [fetchInput, h, fetchWord, hd]

end Sys2Proof.Machine
end

