-- ==== Sys2Proof/Laws/PerInstr.lean ====
section
/-! SUPPORT. Statements about every instruction, one lemma per constructor.

`DecodeEncode`: a well-formed instruction is what the decoder reads from its own word (R59 to R64). -/

namespace Sys2Proof.Laws.DecodeEncode

/-- The family's statement. -/
def Statement (i : Instr) : Prop := i.wellFormed = true → decode (encode i) = .ok i

theorem start : Statement .start := fun _ => by decide

theorem transferComplete : Statement .transferComplete := fun _ => by decide

theorem pulseComplete : Statement .pulseComplete := fun _ => by decide

theorem setBrightnessSkip (n : BitVec 4) : Statement (.setBrightnessSkip n) := by
  unfold Statement; revert n; decide

theorem setFramebuffer (h : Handle) : Statement (.setFramebuffer h) := fun _ => by
  simp only [encode, decode, decodeOp, opcodeOf_append, opField_operand]

theorem tGamma (i : Sample) : Statement (.tGamma i) := fun _ => by
  have h1 : opcodeOf (0x8#4 ++ 0#4 ++ i) = 0x8#4 :=
    (extract_high _ i (by decide)).trans ((extract_high _ _ (by decide)).trans (extract_all _))
  have h2 : opField (0x8#4 ++ 0#4 ++ i) 8 4 = 0 :=
    (extract_high _ i (by decide)).trans ((extract_low _ _ (by decide)).trans (extract_all _))
  have h3 : opField (0x8#4 ++ 0#4 ++ i) 0 8 = i := (extract_low _ i (by decide)).trans (extract_all _)
  simp only [encode, decode, decodeOp, h1, h2, h3, requireZero, if_true]

theorem tLoad (r : RowPair) : Statement (.tLoad r) := fun _ => by revert r; decide

theorem tRender (p : Phase) (b : BankIx) : Statement (.tRender p b) := by
  unfold Statement; revert p b; decide

theorem ackTransfer : Statement .ackTransfer := fun _ => by decide

theorem ackPulse : Statement .ackPulse := fun _ => by decide

theorem armPulse (d : Ticks) : Statement (.armPulse d) := fun _ => by
  simp only [encode, encodeCommand, decode, decodeCmd, cmdCodeOf_append, cmdField_operand]

theorem stopClock : Statement .stopClock := fun _ => by decide

theorem startClock : Statement .startClock := fun _ => by decide

theorem startTransfer (b : BankIx) : Statement (.startTransfer b) := fun _ => by revert b; decide

theorem setRow (r : RowPair) : Statement (.setRow r) := fun _ => by revert r; decide

theorem gammaResult (v : Drive) : Statement (.gammaResult v) := fun _ => by
  have h1 : cmdCodeOf (0x8#4 ++ 0#18 ++ v) = 0x8#4 :=
    (extract_high _ v (by decide)).trans ((extract_high _ _ (by decide)).trans (extract_all _))
  have h2 : cmdField (0x8#4 ++ 0#18 ++ v) 10 18 = 0 :=
    (extract_high _ v (by decide)).trans ((extract_low _ _ (by decide)).trans (extract_all _))
  have h3 : cmdField (0x8#4 ++ 0#18 ++ v) 0 10 = v := (extract_low _ v (by decide)).trans (extract_all _)
  simp only [encode, encodeCommand, decode, decodeCmd, h1, h2, h3, if_true]

end Sys2Proof.Laws.DecodeEncode
end

