-- ==== Sys2Proof/Laws/Step.lean ====
section
/-! SUPPORT. What one step can do: `step_moves` lists the ways a step answers a next state, and every invariant of the
step is a case split over it. -/

namespace Sys2Proof.Machine

/-- The instructions that an enabled event delivers (R105). -/
def eventOf : Agent → Option Instr
  | .transferByte => none
  | .pulseEnd => none
  | .transferEvent => some .transferComplete
  | .pulseEvent => some .pulseComplete

/-- The ways a step goes from `s` to `t`. Every case leaves some schedule `ins`, and nothing else of the fetch. -/
inductive Moves (s t : State) : Prop where
  /-- The schedule's word names an instruction, which runs. -/
  | word (w : PortWord) (ins : List Input) (i : Instr) (hin : s.inputs = .word w :: ins) (hd : decode w = .ok i)
      (he : exec i { s with inputs := ins } = .next t)
  /-- A pending completion is delivered (R105). -/
  | event (ins : List Input) (a : Agent) (i : Instr) (ha : eventOf a = some i) (hen : enabled s a = true)
      (he : exec i { s with inputs := ins } = .next t)
  /-- The transfer engine moves a byte (R103). -/
  | byte (ins : List Input) (hen : enabled s .transferByte = true) (ht : t = byteStep { s with inputs := ins })
  /-- The pulse ends (R104). -/
  | pulse (ins : List Input) (hen : enabled s .pulseEnd = true) (ht : t = pulseEndStep { s with inputs := ins })
  /-- A refusal sets its mark (R111). -/
  | refusal (ins : List Input) (c : RefusalCode) (ht : t = raiseRefusal c { s with inputs := ins })
  /-- The host writes a sample of a framebuffer that is not installed (R52). -/
  | host (ins : List Input) (h : Handle) (y x : BitVec 6) (ch : Fin 3) (v : Sample)
      (hin : s.inputs = .hostSample h y x ch v :: ins) (hni : installed s h = false)
      (ht : t = { s with inputs := ins, fb := Memory.write s.fb (sampleKey h y.toNat x.toNat ch.val) v })
  /-- Nothing is enabled: the core waits (R123). -/
  | wait (ins : List Input) (ht : t = { s with inputs := ins })

@[simp] theorem runFetch_run (i : Instr) (s : State) : runFetch (.run i s) = exec i s := rfl

@[simp] theorem runFetch_answer (o : Host.Outcome State Fault Refusal) : runFetch (.answer o) = o := rfl

theorem enabled_inputs (s : State) (ins : List Input) (a : Agent) : enabled { s with inputs := ins } a = enabled s a := by
  cases a <;> rfl

theorem agentStep_moves {s t : State} {ins : List Input} {a : Agent} (hen : enabled s a = true)
    (h : runFetch (agentStep a { s with inputs := ins }) = .next t) : Moves s t := by
  cases a with
  | transferByte => exact .byte ins hen (by simpa [agentStep, runFetch] using h.symm)
  | pulseEnd => exact .pulse ins hen (by simpa [agentStep, runFetch] using h.symm)
  | transferEvent => exact .event ins .transferEvent _ rfl hen h
  | pulseEvent => exact .event ins .pulseEvent _ rfl hen h

/-- Every step that answers a next state starts with no mark set and is one of `Moves`. -/
theorem step_moves {s t : State} (h : step s = .next t) : s.fault = none ∧ s.refused = none ∧ Moves s t := by
  unfold step fetch at h
  cases hf : s.fault with
  | some f => simp [hf] at h
  | none =>
    cases hr : s.refused with
    | some c => simp [hf, hr] at h
    | none =>
      refine ⟨rfl, rfl, ?_⟩
      simp only [hf, hr] at h
      cases hc : configRefusal s.cfg with
      | some c => exact .refusal s.inputs c (by simpa [hc] using h.symm)
      | none =>
        simp only [hc] at h
        unfold fetchInput at h
        cases hi : s.inputs with
        | nil =>
          simp only [hi, fetchIdle] at h
          cases hn : nextAgent s with
          | none => exact .wait s.inputs (by simpa [hn] using h.symm)
          | some a =>
            simp only [hn] at h
            exact agentStep_moves (ins := s.inputs) (by simpa using List.find?_some hn) h
        | cons e rest =>
          cases e with
          | word w =>
            simp only [hi, fetchWord] at h
            cases hd : decode w with
            | ok i => exact .word w rest i hi hd (by simpa [hd] using h)
            | error e =>
              cases e with
              | refused c => exact .refusal rest c (by simpa [hd] using h.symm)
              | neverEmitted w => simp [hd] at h
          | agent a =>
            simp only [hi, fetchAgent, enabled_inputs] at h
            cases hen : enabled s a with
            | true => exact agentStep_moves hen (by simpa [hen] using h)
            | false => exact .wait rest (by simpa [hen] using h.symm)
          | hostSample hd y x ch v =>
            simp only [hi, hostSampleStep] at h
            have hin : installed { s with inputs := rest } hd = installed s hd := rfl
            cases hinst : installed s hd with
            | true => simp [hin, hinst] at h
            | false => exact .host rest hd y x ch v hi hinst (by simpa [hin, hinst] using h.symm)

/-- An instruction that a word names is well formed. -/
theorem decode_wellFormed {w : PortWord} {i : Instr} (h : decode w = .ok i) : i.wellFormed = true := by
  cases w with
  | op w =>
    simp only [decode] at h
    split at h
    · rename_i j hj
      cases h
      unfold decodeOp requireZero at hj
      split at hj <;> (repeat' split at hj) <;> first | cases hj; done | (cases hj; simp_all [Instr.wellFormed])
    · cases h
  | cmd w =>
    simp only [decode] at h
    split at h
    · rename_i j hj
      cases h
      unfold decodeCmd at hj
      split at hj <;> (try split at hj) <;> first | cases hj; done | (cases hj; rfl)
    · cases h

end Sys2Proof.Machine
end

