-- ==== Sys2Proof/Tests/Slice0.lean ====
section
/-! SUPPORT. Tests: expected values come from the spec's tables and from 95_test_vectors.md, named in each docstring; and for every
statement with hypotheses, one concrete state and operands that meet them. -/

namespace Sys2Proof.Tests

set_option Elab.async false

open Sys2Proof Sys2Proof.Machine

/-! ### Helpers -/

/-- The next state of an outcome. -/
def out : Host.Outcome State Fault Refusal → Option State
  | .next s => some s
  | .fault _ => none
  | .refused _ => none

/-- One field of the next state. -/
def after {α : Type} (f : State → α) (o : Host.Outcome State Fault Refusal) : Option α := (out o).map f

/-- The control state (R23). -/
def control (t : State) : Proto × RowPair × Phase × BankIx := (t.proto, t.rp, t.ph, t.ab)

/-- The counters and the commands. -/
def emitted (t : State) : Nat × Nat × List (BitVec 32) := (t.nLoad, t.nRender, t.cmds)

/-- A bank whose bytes 0 to 62 are `b`, with the latch bit on byte 63 and the terminal byte 0 (R58). -/
def evenBytes (b : LineByte) : Vector LineByte 65 :=
  Vector.ofFn fun j => if j.val < 63 then b else if j.val = 63 then b ||| 0x40 else 0

/-- The same as a bank. -/
def evenBank (b : LineByte) : Bank := (evenBytes b).map some

/-- A row cache with one value everywhere. -/
def evenCache (v : Drive) : RowCache := Vector.replicate 64 (Vector.replicate 6 (some v))

/-- A configuration in closed use. -/
def closedConfig : Config := { Config.default with use := .closedUse }

/-- A configuration with the frame latch. -/
def latchConfig : Config := { Config.default with fbLatchAtFrame := true }

/-- The default configuration with one entry of the table replaced. -/
def withGamma (i : Fin 256) (v : Nat) : Config := { Config.default with gamma := Config.default.gamma.set i v }

/-- The table of V-GAM-2 that falls from entry 100 to entry 101. -/
def fallingConfig : Config := { Config.default with gamma := (Config.default.gamma.set 100 70).set 101 69 }

/-- The two pixels of framebuffer 6 that are not black (95_test_vectors.md section 0). -/
def pixels6 : Memory :=
  [(74694, 128), (74695, 64), (74696, 0), (80838, 255), (80839, 21), (80840, 1)]

/-- Before START, framebuffer 6 installed. -/
def host6 : State := { State.reset with fbref := some 6, fb := pixels6 }

/-- Before START, with a full row cache and a framebuffer. -/
def loaded : State := { State.reset with fbref := some 2, rc := evenCache 1023 }

/-- A running pipeline in open use. -/
def running (proto : Proto) (ph : Phase) (ab : BankIx) : State :=
  { loaded with proto := proto, rp := 1, ph := ph, ab := ab, lb0 := evenBank 0x3F, lb1 := evenBank 0x09 }

/-- A running pipeline in closed use. -/
def runningClosed (proto : Proto) (ph : Phase) (ab : BankIx) : State :=
  { running proto ph ab with cfg := closedConfig }

/-- Closed use, waiting for the transfer's event, which is pending. -/
def pendingTransfer : State := { runningClosed .awaitTC 1 0 with tcPend := true }

/-- Closed use, a transfer of bank 1 with `sent` bytes sent. -/
def sending (sent : Nat) : State :=
  { runningClosed .awaitTC 1 0 with xfer := some ⟨1, evenBytes 0x09, sent⟩, clkRun := true }

/-! ### Well-formedness -/

theorem test_skip_10_well_formed : (Instr.setBrightnessSkip 10).wellFormed = true := by decide
theorem test_skip_11_ill_formed : (Instr.setBrightnessSkip 11).wellFormed = false := by decide
theorem test_phase_9_well_formed : (Instr.tRender 9 1).wellFormed = true := by decide
theorem test_phase_10_ill_formed : (Instr.tRender 10 0).wellFormed = false := by decide

/-! ### Decoding: words written out from R59 and R62 -/

theorem test_decode_start : decode (.op 0b0001_0000_0000_0000) = .ok .start := by decide
theorem test_decode_transfer_complete : decode (.op 0b0010_0000_0000_0000) = .ok .transferComplete := by decide
theorem test_decode_pulse_complete : decode (.op 0b0011_0000_0000_0000) = .ok .pulseComplete := by decide
theorem test_decode_skip : decode (.op 0b0100_0000_0000_0110) = .ok (.setBrightnessSkip 6) := by decide
theorem test_decode_framebuffer : decode (.op 0b0101_1000_0000_0011) = .ok (.setFramebuffer 0x803) := by decide
theorem test_decode_t_gamma : decode (.op 0b1000_0000_1000_0001) = .ok (.tGamma 129) := by decide
theorem test_decode_t_load : decode (.op 0b1001_0000_0001_0010) = .ok (.tLoad 18) := by decide
theorem test_decode_t_render : decode (.op 0b1010_0000_0001_0111) = .ok (.tRender 7 1) := by decide
theorem test_decode_t_render_bank_0 : decode (.op 0b1010_0000_0000_1001) = .ok (.tRender 9 0) := by decide
theorem test_decode_ack_transfer : decode (.cmd 0x10000000) = .ok .ackTransfer := by decide
theorem test_decode_ack_pulse : decode (.cmd 0x20000000) = .ok .ackPulse := by decide
theorem test_decode_arm_pulse : decode (.cmd 0x38000001) = .ok (.armPulse 0x8000001) := by decide
theorem test_decode_stop_clock : decode (.cmd 0x40000000) = .ok .stopClock := by decide
theorem test_decode_start_clock : decode (.cmd 0x50000000) = .ok .startClock := by decide
theorem test_decode_start_transfer : decode (.cmd 0x60000141) = .ok (.startTransfer 1) := by decide
theorem test_decode_set_row : decode (.cmd 0x70000012) = .ok (.setRow 18) := by decide
theorem test_decode_gamma_result : decode (.cmd 0x80000281) = .ok (.gammaResult 641) := by decide

/-- V-ENC-1: the refused words, with their codes. -/
theorem test_refused_words :
    decode (.op 0x1001) = .error (.refused .nonzeroReservedBits) ∧ decode (.op 0x400B) = .error (.refused .skipRange) ∧
    decode (.op 0x4010) = .error (.refused .nonzeroReservedBits) ∧ decode (.op 0x0000) = .error (.refused .reservedOpcode) ∧
    decode (.op 0x6000) = .error (.refused .reservedOpcode) ∧ decode (.op 0x8100) = .error (.refused .nonzeroReservedBits) ∧
    decode (.op 0xA00A) = .error (.refused .phaseRange) ∧ decode (.op 0xA020) = .error (.refused .nonzeroReservedBits) ∧
    decode (.op 0xF000) = .error (.refused .reservedOpcode) := by decide

/-- R111: the codes. -/
theorem test_refusal_codes :
    [RefusalCode.reservedOpcode, .nonzeroReservedBits, .skipRange, .phaseRange, .gammaConfig, .baseConfig].map
      RefusalCode.code = [16, 17, 18, 19, 20, 21] := by decide

/-- R62: a reserved code, a length other than 65, and a bit that must be 0. -/
theorem test_never_emitted :
    decode (.cmd 0x90000000) = .error (.neverEmitted 0x90000000) ∧
    decode (.cmd 0x60000040) = .error (.neverEmitted 0x60000040) ∧
    decode (.cmd 0x70000020) = .error (.neverEmitted 0x70000020) := by decide

/-- The host's numbering of a table row's word. -/
theorem test_decode_table_word :
    decodeTableWord 16 0x9005 = some (.tLoad 5) ∧ decodeTableWord 32 0x60000041 = some (.startTransfer 0) ∧
    decodeTableWord 16 0x0123 = none := by decide

/-! ### The assembler (R65, R66) -/

theorem test_assemble_render :
    assembleLine ['T', '.', 'R', 'E', 'N', 'D', 'E', 'R', ' ', '9', ',', ' ', '1', ' ', ';', 'x'] = some [.op 0xA019] := by
  decide
theorem test_assemble_hex : assembleLine ['F', 'B', ' ', '0', 'x', 'f', 'F'] = some [.op 0x50FF] := by decide
theorem test_assemble_comment : assembleLine [' ', ';', ' ', 'F', 'B'] = some [] := by decide
theorem test_assemble_cycle :
    assembleLine ['C', 'Y', 'C', 'L', 'E', ' ', '2'] = some [.op 0x2000, .op 0x3000, .op 0x2000, .op 0x3000] := by decide
theorem test_assemble_missing_operand : assembleLine ['S', 'K', 'I', 'P'] = none := by decide
theorem test_frame_length : frameWords.length = 640 ∧ dwellWords.length = 20 := by decide +kernel

/-! ### Gamma LUT: the lines of R68's table -/

/-- Line `k` of R68's table. -/
def gammaLine (k : Nat) : List Nat := (List.range 16).map fun i => gammaDefault (16 * k + i)

theorem test_gamma_lines_0_3 : (List.range 4).flatMap gammaLine =
    [0, 0, 0, 0, 0, 0, 0, 0, 0, 0, 0, 0, 0, 0, 0, 0] ++ [0, 0, 0, 0, 0, 1, 1, 1, 1, 1, 1, 1, 1, 2, 2, 2] ++
    [2, 2, 2, 3, 3, 3, 3, 4, 4, 4, 5, 5, 5, 6, 6, 6] ++ [7, 7, 8, 8, 9, 9, 10, 10, 11, 11, 12, 13, 13, 14, 15, 15] := by
  decide +kernel
theorem test_gamma_line_8 :
    gammaLine 8 = [129, 132, 136, 139, 142, 145, 148, 152, 155, 159, 162, 166, 169, 173, 177, 180] := by decide +kernel
theorem test_gamma_line_15 :
    gammaLine 15 = [853, 864, 874, 885, 896, 907, 918, 930, 941, 952, 964, 976, 987, 999, 1011, 1023] := by decide +kernel

/-- V-GAM-2: which configurations are admitted. -/
theorem test_config_checks :
    configRefusal Config.default = none ∧ configRefusal fallingConfig = some .gammaConfig ∧
    configRefusal (withGamma 255 1024) = some .gammaConfig ∧
    configRefusal { Config.default with gamma := Vector.replicate 256 0 } = none ∧
    configRefusal { Config.default with base := 0 } = some .baseConfig ∧
    configRefusal { Config.default with base := 524288 } = some .baseConfig ∧
    configRefusal { Config.default with base := 524287 } = none := by decide +kernel

/-! ### Instructions -/

/-- V-SCH-1, on an even row cache: the control state, the counters and the commands. -/
theorem test_start :
    after control (exec .start loaded) = some (.awaitTC, 0, 0, 1) ∧
    after emitted (exec .start loaded) = some (1, 2, [0x60000041, 0x50000000]) := by decide +kernel
/-- V-EXC-6. -/
theorem test_start_without_framebuffer :
    exec .start State.reset = .next { State.reset with fault := some (.noFramebuffer 0) } := by rfl
/-- V-SCH-2: the deferred reload. -/
theorem test_transfer_complete_reload :
    after control (exec .transferComplete { running .awaitTC 0 1 with rp := 31 }) = some (.awaitPC, 0, 0, 1) ∧
    after emitted (exec .transferComplete { running .awaitTC 0 1 with rp := 31 }) =
      some (1, 1, [0x10000000, 0x30000200, 0x40000000]) := by decide +kernel
/-- V-SCH-4 and V-INT-3: the shortest pulse, in closed use. -/
theorem test_transfer_complete_closed :
    after (fun t => (t.proto, t.tcPend, t.pulse, t.oeN)) (exec .transferComplete pendingTransfer) =
      some (.awaitPC, false, some 1, 0) ∧
    after emitted (exec .transferComplete pendingTransfer) =
      some (0, 0, [0x10000000, 0x30000001, 0x40000000]) := by decide +kernel
/-- V-SCH-3: the second bank is sent, the first is rendered. -/
theorem test_pulse_complete :
    after (fun t => (t.rowaddr, t.lb0[0], t.lb1[0])) (exec .pulseComplete (running .awaitPC 0 1)) =
      some (1, some 0x3F, some 0x09) ∧
    after control (exec .pulseComplete (running .awaitPC 0 1)) = some (.awaitTC, 1, 1, 0) ∧
    after emitted (exec .pulseComplete (running .awaitPC 0 1)) =
      some (0, 1, [0x20000000, 0x70000001, 0x60000141, 0x50000000]) := by decide +kernel
/-- V-SCH-6: after phase 9 nothing is rendered. -/
theorem test_pulse_complete_last_phase :
    after control (exec .pulseComplete (running .awaitPC 9 0)) = some (.awaitTC, 1, 0, 1) ∧
    after emitted (exec .pulseComplete (running .awaitPC 9 0)) =
      some (0, 0, [0x20000000, 0x70000001, 0x60000041, 0x50000000]) := by decide +kernel
/-- V-HOST-1. -/
theorem test_skip : after (fun t => (t.skip, t.cmds)) (exec (.setBrightnessSkip 3) State.reset) = some (3, []) := by decide
/-- V-HOST-2: handle 0 is a handle. -/
theorem test_framebuffer : after (fun t => t.fbref) (exec (.setFramebuffer 0) State.reset) = some (some 0) := by decide
/-- V-GAM-1. -/
theorem test_t_gamma_200 : after (fun t => t.cmds) (exec (.tGamma 200) State.reset) = some [0x800001EE] := by decide +kernel
/-- V-EXC-9. -/
theorem test_t_gamma_after_start : after (fun t => t.fault) (exec (.tGamma 0) (running .awaitTC 0 1)) =
    some (some (.testAfterStart (.op 0x8000))) := by decide
/-- V-LOAD-1. -/
theorem test_t_load : after (fun t => (t.rc[2].toList, t.nLoad, t.rp)) (exec (.tLoad 5) host6) =
    some ([some 129, some 16, some 0, some 1023, some 1, some 0], 1, 0) := by decide +kernel
/-- R71: in the latching variant a load of row pair 5 reads `fbframe`, which is NONE. -/
theorem test_t_load_latched : after (fun t => t.fault) (exec (.tLoad 5) { host6 with cfg := latchConfig }) =
    some (some (.noFramebuffer 5)) := by decide

/-- The row cache of V-BCM-2: column 2 as V-LOAD-1 leaves it, the others 0. -/
def cache6 : RowCache :=
  (evenCache 0).set 2 (Vector.ofFn fun k => some ([129, 16, 0, 1023, 1, 0][k.val]'k.isLt))

/-- Column 2 of a bank that T_RENDER p, 0 writes from `cache6` with `skip = n`. -/
def column2 (n : BitVec 4) (p : Phase) : Option (Option LineByte × Option LineByte × Option LineByte) :=
  after (fun t => (t.lb0[2], t.lb0[63], t.lb0[64])) (exec (.tRender p 0) { State.reset with rc := cache6, skip := n })

/-- V-BCM-2: phases 0, 4 and 7 with skip 0. -/
theorem test_t_render : [0, 4, 7].map (column2 0) =
    [some (some 0x19, some 0x40, some 0x00), some (some 0x0A, some 0x40, some 0x00),
      some (some 0x09, some 0x40, some 0x00)] := by decide +kernel
/-- V-BCM-2: skip 3, phases 1 and 7; skip 9, phase 0. -/
theorem test_t_render_skip : (column2 3 1, column2 3 7, column2 9 0) =
    (some (some 0x0A, some 0x40, some 0x00), some (some 0x00, some 0x40, some 0x00),
      some (some 0x08, some 0x40, some 0x00)) := by decide +kernel

/-- R96. -/
theorem test_ack_transfer : after (fun t => (t.tcPend, t.pcPend)) (exec .ackTransfer { pendingTransfer with pcPend := true }) =
    some (false, true) := by decide
/-- R97. -/
theorem test_ack_pulse : after (fun t => (t.tcPend, t.pcPend)) (exec .ackPulse { pendingTransfer with pcPend := true }) =
    some (true, false) := by decide
/-- R100: the display shows what is latched, at the row address. -/
theorem test_arm_pulse :
    after (fun t => (t.pulse, t.oeN, t.displays)) (exec (.armPulse 512) { State.reset with rowaddr := 7 }) =
    some (some 512, 0, [⟨7, none, 512⟩]) := by decide
/-- R100, R109 code 6. -/
theorem test_arm_pulse_busy : after (fun t => (t.pulse, t.cmds, t.fault)) (exec (.armPulse 512) { State.reset with pulse := some 3 }) =
    some (some 3, [], some (.collabBusy 0x30000200)) := by decide
/-- R101. -/
theorem test_stop_clock : after (fun t => t.clkRun) (exec .stopClock (sending 0)) = some false := by decide
/-- R101. -/
theorem test_start_clock : after (fun t => t.clkRun) (exec .startClock State.reset) = some true := by decide
/-- R99. -/
theorem test_start_transfer :
    after (fun t => (t.xfer.map fun x => (x.bank, x.data[0], x.sent), t.cmds)) (exec (.startTransfer 1) (running .idle 0 0)) =
    some (some (1, 0x09, 0), [0x60000141]) := by decide +kernel
/-- R98. -/
theorem test_set_row : after (fun t => t.rowaddr) (exec (.setRow 31) State.reset) = some 31 := by decide
/-- R102. -/
theorem test_gamma_result : after (fun t => t.cmds) (exec (.gammaResult 129) State.reset) = some [0x80000081] := by decide

/-! ### Steps -/

/-- V-EXC-13: a refused word, before the protocol check. -/
theorem test_step_refused_word :
    after (fun t => (t.refused, t.fault)) (step ((running .awaitTC 0 1).withFetchWord 16 0x2001)) =
    some (some .nonzeroReservedBits, none) := by decide +kernel
/-- V-EXC-1, and then no step (R110). -/
theorem test_step_event_before_start :
    after (fun t => t.fault) (step (State.reset.withFetchWord 16 0x2000)) =
    some (some (.eventOrder (.op 0x2000) .idle)) := by decide +kernel
theorem test_step_after_fault : step { State.reset with fault := some (.noFramebuffer 3) } = .fault (.stopped (.noFramebuffer 3)) := by
  rfl
/-- V-INT-2: the byte with the latch bit. -/
theorem test_step_latch : after (fun t => (t.dataLines, t.latched.isSome, t.xfer.map fun x => x.sent)) (step (sending 63)) =
    some (0x49, true, some 64) := by decide +kernel
/-- V-INT-2: the last byte. -/
theorem test_step_last_byte : after (fun t => (t.dataLines, t.xfer.isSome, t.tcPend)) (step (sending 64)) =
    some (0x00, false, true) := by decide +kernel
/-- R125: before START, with nothing scheduled, nothing happens. -/
theorem test_step_reset_waits : step State.reset = .next State.reset := by
  rw [step, fetch_ready rfl rfl (by decide +kernel)]
  rfl

/-! ### Witnesses: what meets the hypotheses of each statement

`test_meets_<name>` is about `Obligations.<name>`; a clause that has its own hypotheses has its own part, at a value on
the boundary of its range. -/

/-- `s` with one scheduled entry. -/
def scheduled (i : Input) (s : State) : State := { s with inputs := [i] }

/-- A scheduled agent in closed use. -/
def moving (a : Agent) (s : State) : State := { scheduled (.agent a) s with cfg := closedConfig }

theorem test_ready_default : (running .awaitTC 0 1).ready := ⟨rfl, rfl, by decide +kernel⟩
theorem test_ready_closed : (runningClosed .awaitTC 0 1).ready := ⟨rfl, rfl, by decide +kernel⟩
theorem test_ready_admitted {cfg : Config} (h : configRefusal cfg = none) : ({ State.reset with cfg := cfg } : State).ready :=
  ⟨rfl, rfl, h⟩

theorem test_meets_DecodeOfEncodeIsTheInstruction :
    (Instr.setBrightnessSkip 10).wellFormed = true ∧ (Instr.tRender 9 1).wellFormed = true ∧
    (Instr.armPulse 0xFFFFFFF).wellFormed = true := by decide

theorem test_meets_EncodeOfDecodeIsTheWord :
    decode (.op 0xA019) = .ok (.tRender 9 1) ∧ decode (.cmd 0x3FFFFFFF) = .ok (.armPulse 0xFFFFFFF) := by decide

theorem test_meets_OperationWordRefusedExactlyWhen :
    (scheduled (.word (.op 0x400B)) (running .awaitTC 0 1)).ready ∧
    (scheduled (.word (.op 0x400B)) (running .awaitTC 0 1)).inputs = [.word (.op 0x400B)] ∧
    decode (.op 0x400B) = .error (.refused .skipRange) := ⟨test_ready_default, rfl, by decide⟩

theorem test_meets_StepRunsTheDecodedInstruction :
    (scheduled (.word (.op 0x2000)) (running .awaitTC 0 1)).ready ∧
    (scheduled (.word (.op 0x2000)) (running .awaitTC 0 1)).inputs = [.word (.op 0x2000)] ∧
    decode (.op 0x2000) = .ok .transferComplete := ⟨test_ready_default, rfl, by decide⟩

theorem test_meets_StepRunsTheTableWord :
    (running .awaitTC 0 1).ready ∧ decodeTableWord 16 0x2000 = some .transferComplete ∧
    decodeTableWord 32 0x70000000 = some (.setRow 0) := ⟨test_ready_default, by decide, by decide⟩

theorem test_meets_FaultHasNoOtherEffectAndSticks :
    (exec .start State.reset = .next { State.reset with fault := some (.noFramebuffer 0) } ∧
      ({ State.reset with fault := some (.noFramebuffer 0) } : State).fault ≠ State.reset.fault) ∧
    ({ State.reset with fault := some (.noFramebuffer 0) } : State).fault = some (.noFramebuffer 0) := by
  exact ⟨⟨rfl, by decide⟩, rfl⟩

/-- V-GAM-2's tables and values of `BASE`, one for each clause. -/
theorem test_meets_ConfigurationRefusedAsAWhole :
    State.reset.fault = none ∧ State.reset.refused = none ∧
    ({ State.reset with refused := some .baseConfig } : State).refused = some .baseConfig ∧
    (∃ i : Fin 256, 1024 ≤ (withGamma 255 1024).gamma[i]) ∧
    (∃ i j : Fin 256, i ≤ j ∧ fallingConfig.gamma[j] < fallingConfig.gamma[i]) ∧
    (∀ i : Fin 256, Config.default.gamma[i] < 1024) ∧
    (∀ i j : Fin 256, i ≤ j → Config.default.gamma[i] ≤ Config.default.gamma[j]) := by
  have hg := (gammaAdmitted_iff Config.default).mp (by decide +kernel)
  refine ⟨rfl, rfl, rfl, ⟨255, by decide +kernel⟩, ⟨100, 101, by decide +kernel⟩, hg.1, hg.2⟩

/-- The three ranges of `BASE` that the statement names do not meet, at their boundary values. -/
theorem test_base_ranges :
    (∀ b ∈ [0, 524288], b = 0 ∨ 524287 < b) ∧ (∀ b ∈ [1, 524287], 1 ≤ b ∧ b ≤ 524287) := by decide

/-- Faults of R109, with V-EXC-1 to V-EXC-11 among them, in the order of R112. -/
theorem test_meets_InstructionTakesItsEffectOrItsFault_faults :
    faultIn .start State.reset = some (.noFramebuffer 0) ∧
    faultIn .start (running .awaitTC 0 1) = some (.doubleStart (.op 0x1000)) ∧
    faultIn .start { sending 64 with proto := .idle } = some (.collabBusy 0x60000041) ∧
    faultIn .transferComplete State.reset = some (.eventOrder (.op 0x2000) .idle) ∧
    faultIn .transferComplete { runningClosed .awaitTC 1 0 with pulse := some 3 } = some (.collabBusy 0x30000001) ∧
    faultIn .transferComplete { running .awaitTC 0 1 with fbref := none } = some (.noFramebuffer 2) ∧
    faultIn .pulseComplete (running .awaitTC 0 1) = some (.eventOrder (.op 0x3000) .awaitTC) ∧
    faultIn .pulseComplete { sending 0 with proto := .awaitPC, ab := 1 } = some (.collabBusy 0x60000141) ∧
    faultIn .pulseComplete { State.reset with proto := .awaitPC, ph := 8 } = some (.unwritten 0 0) ∧
    faultIn (.tLoad 3) State.reset = some (.noFramebuffer 3) ∧
    faultIn (.tRender 0 0) State.reset = some (.unwritten 0 0) ∧
    faultIn (.startTransfer 1) State.reset = some (.unwrittenByte 1 0) := by decide +kernel

/-- States in which they meet none; open use is not stopped by a busy collaborator, nor phase 9 by an empty cache. -/
theorem test_meets_InstructionTakesItsEffectOrItsFault_effects :
    faultIn .start loaded = none ∧ faultIn .transferComplete (running .awaitTC 1 0) = none ∧
    faultIn .transferComplete { running .awaitTC 0 1 with pulse := some 3 } = none ∧
    faultIn .pulseComplete (runningClosed .awaitPC 8 1) = none ∧
    faultIn .pulseComplete { State.reset with proto := .awaitPC, ph := 9 } = none ∧
    faultIn (.tLoad 31) host6 = none ∧ faultIn (.tRender 9 1) loaded = none ∧
    faultIn (.armPulse 0) State.reset = none ∧ faultIn (.startTransfer 0) (running .idle 0 0) = none := by decide +kernel

theorem test_meets_NoStepWritesTheConfiguration : (out (step (scheduled (.word (.op 0x4003)) loaded))).isSome = true := by
  decide +kernel

/-- A next state in which each register of the statement has changed. -/
theorem test_meets_EachRegisterHasItsWriters :
    after (fun t => decide (t.skip ≠ 0)) (exec (.setBrightnessSkip 10) State.reset) = some true ∧
    after (fun t => t.fbref.isSome) (exec (.setFramebuffer 4095) State.reset) = some true ∧
    after (fun t => decide (t.rp ≠ 31)) (exec .transferComplete { running .awaitTC 0 1 with rp := 31 }) = some true ∧
    after (fun t => decide (t.ph ≠ 9 ∧ t.ab ≠ 0 ∧ t.proto ≠ .awaitPC ∧ t.rowaddr ≠ 0))
      (exec .pulseComplete (running .awaitPC 9 0)) = some true ∧
    after (fun t => t.rc[2][0].isSome) (exec (.tLoad 5) host6) = some true ∧
    after (fun t => t.lb0[64].isSome) (exec (.tRender 0 0) loaded) = some true := by decide +kernel

theorem test_meets_InstalledFramebufferStaysInstalled :
    (out (step (scheduled (.word (.op 0x5000)) loaded))).isSome = true ∧ loaded.fbref ≠ none := by decide +kernel

theorem test_meets_GammaReadIsTheTableAndMonotone :
    configRefusal Config.default = none ∧ (0 : Sample).toNat ≤ (255 : Sample).toNat := by decide +kernel

theorem test_meets_TGammaRepliesWithTheEntry :
    State.reset.proto = .idle ∧ (runningClosed .idle 0 0).proto = .idle := by decide

/-- Both ways of choosing the handle, and row pair 0 with the latch. -/
theorem test_meets_TLoadFillsTheRowCache :
    host6.proto = .idle ∧ loadHandle 31 host6 = some 6 ∧ loadHandle 0 { host6 with cfg := latchConfig } = some 6 ∧
    loadHandle 31 { host6 with cfg := latchConfig, fbframe := some 7 } = some 7 := by decide

theorem test_meets_LoadWithoutFramebufferFaults :
    (State.reset.proto = .idle ∧ loadHandle 31 State.reset = none ∧ State.reset.fbref = none) ∧
    loadHandle 1 { host6 with cfg := latchConfig } = none ∧
    ((running .awaitTC 0 1).proto = .awaitTC ∧ (running .awaitTC 0 1).ph = 0 ∧
      loadHandle (1 + 1) { running .awaitTC 0 1 with fbref := none } = none) ∧
    (runningClosed .awaitTC 0 1).pulse = none := by decide

theorem test_meets_TestPortFaultsAfterStart :
    (running .awaitTC 0 1).proto ≠ .idle ∧ (running .awaitPC 0 1).proto ≠ .idle := by decide

/-- With the identity `PLANE_BIT`; and the two sides of the range of `p + skip`. -/
theorem test_meets_TRenderWritesTheBank :
    phaseInRange 9 ∧ loaded.proto = .idle ∧ CacheFull loaded.rc ∧ PlanesApart loaded.cfg ∧
    loaded.rc[63][5] = some 1023 ∧ (9 : Phase).toNat + (0 : BitVec 4).toNat < 10 ∧
    10 ≤ (9 : Phase).toNat + (1 : BitVec 4).toNat := by decide +kernel

theorem test_meets_RenderedBankShape :
    (∃ t, renderPhase 0 1 { loaded with skip := 10 } = .ok t) ∧
    10 ≤ (0 : Phase).toNat + (10 : BitVec 4).toNat :=
  ⟨⟨_, renderPhase_full (by decide +kernel)⟩, by decide⟩

/-- R76's property at column 63 of an all-white row cache: every one of the ten banks has the byte 0x7F there. -/
theorem test_meets_PhasesReconstructTheEntry :
    PlanesApart loaded.cfg ∧ loaded.skip.toNat ≤ 10 ∧ loaded.rc[63][5] = some 1023 ∧
    ∀ p : Fin 10, ∃ t, renderPhase (BitVec.ofNat 4 p.val) 0 loaded = .ok t ∧ (t.bank 0)[63] = some 0x7F := by
  refine ⟨by decide +kernel, by decide, by decide +kernel, fun p => ⟨_, renderPhase_full ?_, ?_⟩⟩
  · decide +kernel
  · revert p; decide +kernel

/-- An unwritten row cache: the first entry is (0, 0); and one whose only unwritten entry is the last. -/
theorem test_meets_RenderOfUnloadedEntryFaults :
    phaseInRange 0 ∧ State.reset.proto = .idle ∧ State.reset.rc[0][0] = none ∧
    (let rc : RowCache := (evenCache 1).set 63 ((Vector.replicate 6 (some 1)).set 5 none)
     rc[63][5] = none ∧ ∀ (c : Fin 64) (k : Fin 6), c.val * 6 + k.val < 63 * 6 + 5 → rc[c][k] ≠ none) := by decide +kernel

theorem test_meets_StartPrimesThePipelineOpen :
    loaded.proto = .idle ∧ loaded.cfg.use = .openUse ∧ loaded.fbref = some 2 := by decide

theorem test_meets_StartPrimesThePipelineClosed :
    (runningClosed .idle 0 0).proto = .idle ∧ (runningClosed .idle 0 0).cfg.use = .closedUse ∧
    (runningClosed .idle 0 0).xfer = none ∧ (runningClosed .idle 0 0).fbref = some 2 := by decide

theorem test_meets_OperationOutOfOrderFaults :
    (running .awaitTC 0 1).proto ≠ .idle ∧ State.reset.proto ≠ .awaitTC ∧ State.reset.proto ≠ .awaitPC ∧
    (running .awaitPC 0 1).proto ≠ .awaitTC ∧ (running .awaitTC 0 1).proto ≠ .awaitPC := by decide

/-- The phases next to the boundary of the two branches, and the wrap of the row pair with the latch. -/
theorem test_meets_TransferCompleteOpen :
    (∀ ph : Phase, (running .awaitTC ph 1).proto = .awaitTC ∧ (running .awaitTC ph 1).cfg.use = .openUse) ∧
    (running .awaitTC 1 1).ph ≠ 0 ∧ (running .awaitTC 0 1).ph = 0 ∧
    loadHandle (1 + 1) (running .awaitTC 0 1) = some 2 ∧
    loadHandle (31 + 1) { running .awaitTC 0 1 with cfg := latchConfig } = some 2 := by
  refine ⟨fun _ => ⟨rfl, rfl⟩, by decide, by decide, by decide, by decide⟩

theorem test_meets_TransferCompleteClosed :
    (runningClosed .awaitTC 1 1).proto = .awaitTC ∧ (runningClosed .awaitTC 1 1).cfg.use = .closedUse ∧
    (runningClosed .awaitTC 1 1).pulse = none ∧ (runningClosed .awaitTC 1 1).ph ≠ 0 ∧
    (runningClosed .awaitTC 0 1).ph = 0 ∧ loadHandle (1 + 1) (runningClosed .awaitTC 0 1) = some 2 := by decide

/-- Phases 8 and 9 are on the two sides of the branch. -/
theorem test_meets_PulseCompleteOpen :
    (running .awaitPC 8 1).proto = .awaitPC ∧ (running .awaitPC 8 1).cfg.use = .openUse ∧
    (running .awaitPC 8 1).ph.toNat < 9 ∧ CacheFull (running .awaitPC 8 1).rc ∧
    9 ≤ (running .awaitPC 9 1).ph.toNat := by decide +kernel

theorem test_meets_PulseCompleteClosed :
    (runningClosed .awaitPC 8 1).proto = .awaitPC ∧ (runningClosed .awaitPC 8 1).cfg.use = .closedUse ∧
    (runningClosed .awaitPC 8 1).xfer = none ∧ BankFull ((runningClosed .awaitPC 8 1).bank 1) ∧
    (runningClosed .awaitPC 8 1).ph.toNat < 9 ∧ CacheFull (runningClosed .awaitPC 8 1).rc ∧
    9 ≤ (runningClosed .awaitPC 9 1).ph.toNat := by decide +kernel

theorem test_meets_BusyCollaboratorFaults :
    closedConfig.use = .closedUse ∧
    ({ sending 64 with proto := .idle } : State).proto = .idle ∧ ({ sending 64 with proto := .idle } : State).fbref = some 2 ∧
    (sending 64).xfer = some ⟨1, evenBytes 0x09, 64⟩ ∧
    ({ runningClosed .awaitTC 0 1 with pulse := some 1 } : State).pulse = some 1 ∧
    ({ sending 0 with proto := .awaitPC } : State).proto = .awaitPC := by decide +kernel

/-- The largest `BASE`, and phases 0 and 9. -/
theorem test_meets_PulseFieldHoldsTheDuration :
    configRefusal { Config.default with base := 524287 } = none ∧ (0 : Phase).toNat < 10 ∧ (9 : Phase).toNat < 10 := by
  decide +kernel

theorem test_meets_FirstPulseAfterStartIsTheLongest :
    loaded.proto = .idle ∧ loaded.cfg.use = .openUse ∧ loaded.fbref = some 2 := by decide

theorem test_meets_FrameReturnsToTheStartState :
    let s : State := { running .awaitTC 0 1 with rp := 0, inputs := frameWords.map Input.word ++ [] }
    s.ready ∧ s.cfg.use = .openUse ∧ s.proto = .awaitTC ∧ s.rp = 0 ∧ s.ph = 0 ∧ s.ab = 1 ∧ s.fbref ≠ none ∧
    (s.cfg.fbLatchAtFrame = true → s.fbframe ≠ none) ∧ s.inputs = frameWords.map Input.word ++ [] :=
  ⟨test_ready_default, rfl, rfl, rfl, rfl, rfl, nofun, nofun, rfl⟩

theorem test_meets_SkipWriteChangesOnlySkip : skipInRange 0 ∧ skipInRange 10 := by decide

/-- The three ways the next load's handle is chosen. -/
theorem test_meets_SwapIsSeenByTheNextLoad :
    (running .awaitTC 0 1).proto = .awaitTC ∧ (running .awaitTC 0 1).cfg.use = .openUse ∧ (running .awaitTC 0 1).ph = 0 ∧
    (running .awaitTC 0 1).cfg.fbLatchAtFrame = false ∧
    ({ running .awaitTC 0 1 with cfg := latchConfig, rp := 31 } : State).rp + 1 = 0 ∧
    (let s : State := { running .awaitTC 0 1 with cfg := latchConfig, fbframe := some 4 }
     s.cfg.fbLatchAtFrame = true ∧ s.rp + 1 ≠ 0 ∧ s.fbframe = some 4) := by decide

theorem test_meets_SkipIsSeenByTheNextRender :
    (running .awaitPC 8 1).proto = .awaitPC ∧ (running .awaitPC 8 1).cfg.use = .openUse ∧
    (running .awaitPC 8 1).ph.toNat < 9 ∧ CacheFull (running .awaitPC 8 1).rc ∧ skipInRange 10 := by decide +kernel

theorem test_meets_ArmPulseStartsThePulse :
    State.reset.pulse = none ∧ ({ State.reset with pulse := some 0 } : State).pulse ≠ none := by decide

/-- A full bank; a transfer in progress; a bank whose only missing byte is the last. -/
theorem test_meets_StartTransferTakesTheSnapshot :
    ((running .idle 0 0).xfer = none ∧
      ∀ j : Fin 65, ((running .idle 0 0).bank 1)[j] = some (evenBytes 0x09)[j]) ∧
    (sending 0).xfer ≠ none ∧
    (let bank : Bank := (evenBank 0x09).set 64 none
     bank[(64 : Fin 65)] = none ∧ ∀ j : Fin 65, j < 64 → bank[j] ≠ none) := by decide +kernel

/-- The first byte and the last. -/
theorem test_meets_ByteStepMovesTheNextByte :
    ∀ sent : Fin 65, (moving .transferByte (sending sent.val)).ready ∧
      (moving .transferByte (sending sent.val)).cfg.use = .closedUse ∧
      (moving .transferByte (sending sent.val)).inputs = [.agent .transferByte] ∧
      (moving .transferByte (sending sent.val)).xfer = some ⟨1, evenBytes 0x09, sent.val⟩ ∧
      (moving .transferByte (sending sent.val)).clkRun = true :=
  fun _ => ⟨test_ready_closed, rfl, rfl, rfl, rfl⟩

theorem test_meets_PulseEndRaisesItsCompletion :
    let s : State := moving .pulseEnd { runningClosed .awaitPC 1 0 with pulse := some 1 }
    s.ready ∧ s.cfg.use = .closedUse ∧ s.inputs = [.agent .pulseEnd] ∧ s.pulse = some 1 :=
  ⟨test_ready_closed, rfl, rfl, rfl⟩

theorem test_meets_PendingEventIsDelivered :
    (let s : State := moving .transferEvent pendingTransfer
     s.ready ∧ s.cfg.use = .closedUse ∧ s.inputs = [.agent .transferEvent] ∧ s.tcPend = true) ∧
    (let s : State := moving .pulseEvent { runningClosed .awaitPC 1 0 with pcPend := true }
     s.inputs = [.agent .pulseEvent] ∧ s.pcPend = true) :=
  ⟨⟨test_ready_closed, rfl, rfl, rfl⟩, rfl, rfl⟩

/-- In open use no agent is enabled, and in closed use none before START. -/
theorem test_meets_NothingEnabledMeansWaiting :
    (scheduled (.agent .pulseEnd) (running .awaitPC 1 0)).ready ∧
    (∀ a, enabled (running .awaitPC 1 0) a = false) ∧ (running .awaitPC 1 0).inputs = [] ∧
    (∀ a, enabled ({ State.reset with cfg := closedConfig } : State) a = false) :=
  ⟨test_ready_default, fun a => by cases a <;> rfl, rfl, fun a => by cases a <;> rfl⟩

theorem test_meets_TransferEndsAfter65Bytes :
    (sending 0).ready ∧ (sending 0).cfg.use = .closedUse ∧ (sending 0).inputs = [] ∧
    (sending 0).xfer = some ⟨1, evenBytes 0x09, 0⟩ ∧ (sending 0).clkRun = true ∧ (sending 0).tcPend = false ∧
    (sending 0).pcPend = false ∧ latchOnLastColumn (evenBytes 0x09) :=
  ⟨test_ready_closed, rfl, rfl, rfl, rfl, rfl, rfl, by unfold latchOnLastColumn; decide +kernel⟩

/-- Phase 9, after which the row pair changes. -/
theorem test_meets_PanelShowsTheRenderedPhase :
    let s : State := { runningClosed .awaitPC 9 0 with pcPend := true }
    s.ready ∧ s.cfg.use = .closedUse ∧ s.inputs = [] ∧ s.proto = .awaitPC ∧ s.xfer = none ∧ s.tcPend = false ∧
    s.pulse = none ∧ s.pcPend = true ∧ s.ph.toNat < 10 ∧ CacheFull s.rc ∧
    (∀ j : Fin 65, (s.bank s.ab)[j] = some (evenBytes 0x3F)[j]) ∧ latchOnLastColumn (evenBytes 0x3F) ∧
    loadHandle (s.rp + 1) s ≠ none :=
  ⟨test_ready_closed, rfl, rfl, rfl, rfl, rfl, rfl, rfl, by decide, by decide +kernel, by decide +kernel,
    by unfold latchOnLastColumn; decide +kernel, by decide⟩

/-- The last place of another framebuffer, of the installed one, and of the one that `fbframe` alone holds. -/
theorem test_meets_HostSampleWriteIsLocal :
    (let s : State := scheduled (.hostSample 4095 63 63 2 255) loaded
     s.ready ∧ s.inputs = [.hostSample 4095 63 63 2 255] ∧ s.fbref ≠ some 4095 ∧ s.cfg.fbLatchAtFrame = false) ∧
    (scheduled (.hostSample 2 63 63 2 255) loaded).fbref = some 2 ∧
    (let s : State := scheduled (.hostSample 4 0 0 0 0) { loaded with cfg := latchConfig, fbframe := some 4 }
     s.ready ∧ s.fbref ≠ some 4 ∧ s.cfg.fbLatchAtFrame = true ∧ s.fbframe = some 4) :=
  ⟨⟨test_ready_default, rfl, by decide, rfl⟩, rfl, ⟨rfl, rfl, by decide +kernel⟩, by decide, rfl, rfl⟩

/-- A running state with legal values, with a step. -/
theorem test_meets_StepKeepsLegalValues :
    (sending 64).inRange ∧ (out (step (sending 64))).isSome = true := by decide +kernel

/-- A running state: the load of row pair 3 of framebuffer 2, and the render of its phase 9 in bank 0. -/
def aheadState : State :=
  { loaded with
    proto := .awaitPC, rp := 3, ph := 9,
    rc := loadedCache Config.default [] 2 3
    lb0 := renderedBank Config.default (loadedCache Config.default [] 2 3) (effectiveBit 9 0) }

/-- With the word of PULSE_COMPLETE, and with a host write of a sample of another framebuffer. -/
theorem test_meets_StepKeepsTheBankRenderedAhead :
    (let s : State := scheduled (.word (.op 0x3000)) aheadState
     s.renderedAhead 2 0 ∧ s.leavesAlone 2 ∧ after (fun t => t.proto) (step s) = some .awaitTC ∧ (0 : BitVec 4) = s.skip ∧
       ∀ n rest, s.inputs ≠ .word (encode (.setBrightnessSkip n)) :: rest) ∧
    (let s : State := scheduled (.hostSample 3 0 0 0 1) aheadState
     s.renderedAhead 2 0 ∧ s.leavesAlone 2 ∧ after (fun t => t.proto) (step s) = some .awaitPC) := by
  refine ⟨⟨fun _ => ⟨rfl, fun _ => rfl⟩, nofun, by decide +kernel, rfl, ?_⟩,
    fun _ => ⟨rfl, fun _ => rfl⟩, ?_, by decide +kernel⟩
  · intro n rest h
    injection h with h
    injection h with h
    revert h
    revert n
    decide
  · intro y x ch v rest h
    injection h with h
    injection h with h
    exact absurd h (by decide)

/-- Closed use, in order: the event of a transfer is pending. -/
theorem test_pendingTransfer_in_order : pendingTransfer.closedInOrder :=
  ⟨rfl, ⟨rfl, rfl, .inl ⟨rfl, rfl⟩⟩,
    fun _ => ⟨by decide +kernel, by decide +kernel, by decide +kernel, by decide, nofun⟩, nofun⟩

/-- Closed use, in order: a transfer has its last byte left. -/
theorem test_sending_in_order : (sending 64).closedInOrder :=
  ⟨rfl, ⟨rfl, rfl, .inr ⟨_, rfl, by decide, rfl, rfl, rfl, rfl⟩⟩,
    fun _ => ⟨by decide +kernel, by decide +kernel, by decide +kernel, by decide, nofun⟩, nofun⟩

/-- With no entry scheduled, with a host word, and with an agent's entry. -/
theorem test_meets_DeliveredStepKeepsClosedOrder :
    (sending 64).delivered ∧ (scheduled (.word (.op 0x400A)) (sending 64)).delivered ∧
    (scheduled (.agent .transferByte) (sending 64)).delivered ∧ (out (step (sending 64))).isSome = true := by
  refine ⟨nofun, ?_, nofun, by decide +kernel⟩
  intro w rest h
  cases h
  exact ⟨by decide, by decide, nofun⟩

theorem test_meets_ExactlyOneAgentIsEnabled :
    pendingTransfer.proto ≠ .idle ∧ enabled pendingTransfer .transferEvent = true ∧ (sending 64).proto ≠ .idle ∧
    enabled (sending 64) .transferByte = true := by decide

theorem test_meets_StartedEngineRunsIndefinitely :
    pendingTransfer.ready ∧ pendingTransfer.closedInOrder ∧ pendingTransfer.proto ≠ .idle ∧ pendingTransfer.inputs = [] :=
  ⟨test_ready_closed, test_pendingTransfer_in_order, by decide, rfl⟩

end Sys2Proof.Tests
end

section
/-! The step of an enabled machine is the next entry of its schedule; a word that decodes is run (O5, O6). -/

namespace Sys2Proof.Machine

/-- R110, R111: with no mark set and the configuration admitted, nothing stands before the schedule's next entry. -/
theorem step_ready {s : State} (h : s.ready) : step s = runFetch (fetchInput s) := by
  obtain ⟨hfault, hrefused, hcfg⟩ := h
  rw [step, fetch_ready hfault hrefused hcfg]

/-- The table's reader is the port's decoder: it drops only the reason of a word that names no instruction. -/
theorem decodeTableWord_eq_some_iff {nbits w : Nat} {i : Instr} :
    decodeTableWord nbits w = some i ↔ decode (tablePortWord nbits w) = .ok i := by
  unfold decodeTableWord
  cases decode (tablePortWord nbits w) with
  | ok j => simp
  | error e => simp

@[simp] theorem withFetchWord_inputs (s : State) (nbits w : Nat) :
    (s.withFetchWord nbits w).inputs = .word (tablePortWord nbits w) :: s.inputs := rfl

/-- Placing a word touches the schedule alone. -/
@[simp] theorem withFetchWord_taken (s : State) (nbits w : Nat) :
    { s.withFetchWord nbits w with inputs := s.inputs } = s := rfl

theorem withFetchWord_ready {s : State} (h : s.ready) (nbits w : Nat) : (s.withFetchWord nbits w).ready := h

/-- Settles O5: an enabled step fetches from the schedule, and fetching a word that decodes runs its instruction. -/
theorem stepRunsTheDecodedInstruction : Obligations.StepRunsTheDecodedInstruction := by
  intro s w rest i hready hin hdecode
  rw [step_ready hready, fetchInput_word hin hdecode, runFetch_run]

/-- Settles O6 from O5: the placed word is the schedule's next entry, and taking it gives back the state. -/
theorem stepRunsTheTableWord : Obligations.StepRunsTheTableWord := by
  intro s nbits w i hready htable
  have hdecode := decodeTableWord_eq_some_iff.1 htable
  have hstep := stepRunsTheDecodedInstruction _ _ _ i (withFetchWord_ready hready nbits w)
    (withFetchWord_inputs s nbits w) hdecode
  rwa [withFetchWord_taken] at hstep

end Sys2Proof.Machine
end

section
/-! Legal values (R18, R20, R26): each shared operation keeps them, and a sequence of operations that keep them does (O49);
they and the other invariants hold at reset (O51). -/

namespace Sys2Proof.Machine

/-- A pulse that starts is the requested one, and its display is recorded (R100). -/
theorem eq_of_armPulse_ok {d : Ticks} {s t : State} (h : armPulse d s = .ok t) :
    t = recordDisplay d (beginPulse d s) := by
  cases hp : s.pulse with
  | none => rw [armPulse_free hp] at h; cases h; rfl
  | some e => rw [armPulse_busy hp] at h; cases h

/-- A transfer that starts is the snapshot of the bank (R99). -/
theorem eq_of_startTransfer_ok {b : BankIx} {s t : State} (h : startTransfer b s = .ok t) :
    t = setTransfer (some ⟨b, bankBytes (s.bank b), 0⟩) s := by
  cases hx : s.xfer with
  | some x => rw [startTransfer_busy hx] at h; cases h
  | none =>
    cases hb : firstMissingByte (s.bank b) with
    | none => rw [startTransfer_free hx hb] at h; cases h; rfl
    | some j => simp [startTransfer, hx, hb] at h

/-- The command that an instruction gives a collaborator by itself (log entry 4). -/
def commandOf : Instr → Option Command
  | .ackTransfer => some .ackTransfer
  | .ackPulse => some .ackPulse
  | .armPulse d => some (.armPulse d)
  | .stopClock => some .stopClock
  | .startClock => some .startClock
  | .startTransfer b => some (.startTransfer b)
  | .setRow r => some (.setRow r)
  | .gammaResult v => some (.gammaResult v)
  | .start | .transferComplete | .pulseComplete | .setBrightnessSkip _ | .setFramebuffer _ | .tGamma _ | .tLoad _
  | .tRender _ _ => none

/-- A command's instruction is its delivery. -/
theorem commit_deliver_of_exec {i : Instr} {c : Command} {s t : State} (h : exec i s = .next t)
    (hc : commandOf i = some c) : commit s (deliver c s) = .next t := by
  cases i <;> cases hc <;> exact h

/-! ### Operations that end in legal values -/

/-- If the operation succeeds, its state has legal values. -/
def EndsInRange (r : Except FaultRecord State) : Prop := ∀ t, r = .ok t → t.inRange

theorem EndsInRange.ok {s : State} (hs : s.inRange) : EndsInRange (.ok s) := by
  intro t ht
  cases ht
  exact hs

theorem EndsInRange.error (f : FaultRecord) : EndsInRange (.error f) := by
  intro t ht
  cases ht

theorem EndsInRange.bind {r : Except FaultRecord State} {f : State → Except FaultRecord State} (hr : EndsInRange r)
    (hf : ∀ s, s.inRange → EndsInRange (f s)) : EndsInRange (r >>= f) := by
  intro t ht
  obtain ⟨u, hu, hft⟩ := bind_eq_ok_iff.1 ht
  exact hf u (hr u hu) t hft

/-- The protocol check in front of an operation. -/
theorem EndsInRange.guard {r : Except FaultRecord State} (c : Prop) [Decidable c] (f : FaultRecord) (hr : EndsInRange r) :
    EndsInRange (if c then r else .error f) := by
  split
  · exact hr
  · exact .error f

/-- R110: a fault keeps every legal value, so the whole step of an operation does if the operation does. -/
theorem commit_keeps_inRange {s t : State} {r : Except FaultRecord State} (hs : s.inRange) (hr : EndsInRange r)
    (h : commit s r = .next t) : t.inRange := by
  obtain hok | ⟨f, -, rfl⟩ := commit_cases h
  · exact hr t hok
  · exact hs

theorem setPhase_inRange {s : State} {x : Phase} (hs : s.inRange) (hx : x.toNat < 10) : (setPhase x s).inRange :=
  ⟨hx, hs.2⟩

theorem setTransfer_inRange {s : State} {x : Option Transfer} (hs : s.inRange) (hx : ∀ t ∈ x, t.sent < 65) :
    (setTransfer x s).inRange := by
  obtain ⟨hph, hskip, -, hoe, hfb⟩ := hs
  exact ⟨hph, hskip, hx, hoe, hfb⟩

theorem beginPulse_inRange {s : State} (d : Ticks) (hs : s.inRange) : (beginPulse d s).inRange := by
  obtain ⟨hph, hskip, hx, -, hfb⟩ := hs
  exact ⟨hph, hskip, hx, rfl, hfb⟩

theorem endPulse_inRange {s : State} (hs : s.inRange) : (endPulse s).inRange := by
  obtain ⟨hph, hskip, hx, -, hfb⟩ := hs
  exact ⟨hph, hskip, hx, rfl, hfb⟩

/-- Only the two commands that start a collaborator touch a value with a legal range (R99, R100). -/
theorem applyCommand_inRange (c : Command) {s : State} (hs : s.inRange) : EndsInRange (applyCommand c s) := by
  cases c with
  | armPulse d =>
    intro t ht
    have hpulse := beginPulse_inRange d hs
    rw [eq_of_armPulse_ok ht]
    exact hpulse
  | startTransfer b =>
    intro t ht
    rw [eq_of_startTransfer_ok ht]
    exact setTransfer_inRange hs (by simp)
  | ackTransfer | ackPulse | stopClock | startClock | setRow r | gammaResult v => exact .ok hs

theorem deliver_inRange (c : Command) {s : State} (hs : s.inRange) : EndsInRange (deliver c s) :=
  applyCommand_inRange c (s := record c s) hs

theorem emit_inRange (c : Command) {s : State} (hs : s.inRange) : EndsInRange (emit c s) := by
  cases hu : s.cfg.use with
  | openUse =>
    rw [emit_open c hu]
    cases c <;> exact .ok hs
  | closedUse =>
    rw [emit_closed c hu]
    exact deliver_inRange c hs

theorem loadRowCache_inRange (r : RowPair) {s : State} (hs : s.inRange) : EndsInRange (loadRowCache r s) := by
  obtain ⟨-, h⟩ | ⟨hd, -, h⟩ := loadRowCache_cases r s
  · rw [h]; exact .error _
  · rw [h]; exact .ok hs

theorem renderPhase_inRange (p : Phase) (b : BankIx) {s : State} (hs : s.inRange) : EndsInRange (renderPhase p b s) := by
  obtain ⟨c, k, -, h⟩ | ⟨-, h⟩ := renderPhase_cases p b s
  · rw [h]; exact .error _
  · rw [h]; exact .ok hs

/-! ### The scheduler's operations -/

theorem primePipeline_inRange {s : State} (hs : s.inRange) : EndsInRange (primePipeline s) := by
  have hreset : (setActive 0 (setPhase 0 (setRowPair 0 s))).inRange :=
    setPhase_inRange (s := setRowPair 0 s) (x := 0) hs (by decide)
  unfold primePipeline
  exact (loadRowCache_inRange 0 hreset).bind fun _ h => (renderPhase_inRange 0 0 h).bind fun _ h =>
    (emit_inRange _ h).bind fun _ h => (emit_inRange _ h).bind fun _ h =>
      (renderPhase_inRange 1 1 (s := setActive 1 _) h).bind fun _ h => .ok h

theorem reloadIfPending_inRange {s : State} (hs : s.inRange) : EndsInRange (reloadIfPending s) := by
  by_cases hp : s.ph = 0
  · rw [reloadIfPending, if_pos hp]
    have hnine : (setRowPair (s.rp + 1) (setPhase 9 s)).inRange :=
      setPhase_inRange (s := s) (x := 9) hs (by decide)
    exact (loadRowCache_inRange (s.rp + 1) hnine).bind fun _ h =>
      renderPhase_inRange 0 _ (setPhase_inRange (x := 0) h (by decide))
  · rw [reloadIfPending_of_ne hp]
    exact .ok hs

theorem transferDone_inRange {s : State} (hs : s.inRange) : EndsInRange (transferDone s) := by
  unfold transferDone
  exact (emit_inRange _ hs).bind fun _ h => (emit_inRange _ h).bind fun _ h => (emit_inRange _ h).bind fun _ h =>
    (reloadIfPending_inRange h).bind fun _ h => .ok h

/-- The phase goes up by one below 9, and back to 0 from there (R84). -/
theorem advancePhase_inRange {s : State} (hs : s.inRange) : EndsInRange (advancePhase s) := by
  by_cases hp : s.ph < 9
  · have hnext : (s.ph + 1).toNat < 10 := by bv_omega
    rw [advancePhase, if_pos hp]
    exact renderPhase_inRange _ _ (setPhase_inRange hs hnext)
  · rw [advancePhase, if_neg hp]
    exact .ok (setPhase_inRange hs (by decide))

theorem pulseDone_inRange {s : State} (hs : s.inRange) : EndsInRange (pulseDone s) := by
  unfold pulseDone
  exact (emit_inRange _ hs).bind fun _ h => (emit_inRange _ h).bind fun _ h => (emit_inRange _ h).bind fun _ h =>
    (emit_inRange _ h).bind fun u h => (advancePhase_inRange (s := setActive (otherBank u.ab) u) h).bind fun _ h => .ok h

/-! ### Instructions and agents -/

/-- A well-formed instruction keeps the legal values; its form bounds the skip (R91). -/
theorem exec_keeps_inRange {i : Instr} {s t : State} (hi : i.wellFormed = true) (hs : s.inRange)
    (h : exec i s = .next t) : t.inRange := by
  cases i with
  | start => exact commit_keeps_inRange hs (.guard _ _ (primePipeline_inRange hs)) h
  | transferComplete => exact commit_keeps_inRange hs (.guard _ _ (transferDone_inRange hs)) h
  | pulseComplete => exact commit_keeps_inRange hs (.guard _ _ (pulseDone_inRange hs)) h
  | setBrightnessSkip n =>
    cases h
    have hn : n.toNat ≤ 10 := of_decide_eq_true hi
    exact ⟨hs.1, hn, hs.2.2⟩
  | setFramebuffer hd => cases h; exact hs
  | tGamma x => exact commit_keeps_inRange hs (.guard _ _ (emit_inRange _ hs)) h
  | tLoad r => exact commit_keeps_inRange hs (.guard _ _ (loadRowCache_inRange r hs)) h
  | tRender p b => exact commit_keeps_inRange hs (.guard _ _ (renderPhase_inRange p b hs)) h
  | ackTransfer | ackPulse | armPulse d | stopClock | startClock | startTransfer b | setRow r | gammaResult v =>
    exact commit_keeps_inRange hs (deliver_inRange _ hs) (commit_deliver_of_exec h rfl)

/-- The byte index stops at 64: the last byte ends the transfer (R103). -/
theorem advanceTransfer_inRange {s : State} {x : Transfer} (hs : s.inRange) (hx : x.sent < 65) :
    (advanceTransfer x s).inRange := by
  unfold advanceTransfer
  split
  · exact setTransfer_inRange (s := s) (x := none) hs (by simp)
  · refine setTransfer_inRange (s := s) (x := some _) hs ?_
    simp only [Option.mem_some_iff, forall_eq']
    omega

theorem byteStep_inRange {s : State} (hs : s.inRange) : (byteStep s).inRange := by
  unfold byteStep
  split
  · exact hs
  · split
    next hlt => exact advanceTransfer_inRange (s := { s with dataLines := _, latched := _ }) hs hlt
    next => exact hs

/-- The instructions that the two events deliver have no operand. -/
theorem eventOf_wellFormed {a : Agent} {i : Instr} (h : eventOf a = some i) : i.wellFormed = true := by
  cases a <;> cases h <;> rfl

/-- Settles O49, by the ways of a step: an instruction, a collaborator's move, a host write (which keeps the memory's
canonical form), or a move of the schedule alone. -/
theorem stepKeepsLegalValues : Obligations.StepKeepsLegalValues := by
  intro s t hs hstep
  obtain ⟨-, -, hmove⟩ := step_moves hstep
  cases hmove with
  | word w ins i hin hd he => exact exec_keeps_inRange (s := { s with inputs := ins }) (decode_wellFormed hd) hs he
  | event ins a i ha hen he => exact exec_keeps_inRange (s := { s with inputs := ins }) (eventOf_wellFormed ha) hs he
  | byte ins hen ht => rw [ht]; exact byteStep_inRange (s := { s with inputs := ins }) hs
  | pulse ins hen ht => rw [ht]; exact endPulse_inRange (s := { s with inputs := ins }) hs
  | refusal ins c ht => rw [ht]; exact hs
  | host ins hd y x ch v hin hni ht =>
    obtain ⟨hph, hskip, hx, hoe, hfb⟩ := hs
    rw [ht]
    exact ⟨hph, hskip, hx, hoe, Memory.write_keeps_wf s.fb v hfb (sampleKey_lt hd y x ch)⟩
  | wait ins ht => rw [ht]; exact hs

/-- Settles O51: at reset the registers are 0, no collaborator is busy, and what holds after START asks nothing. -/
theorem resetMeetsTheInvariants : Obligations.ResetMeetsTheInvariants := by
  have hinRange : State.reset.inRange := ⟨by decide, by decide, nofun, rfl, rfl⟩
  have hahead : ∀ h k, State.reset.renderedAhead h k := fun _ _ hstarted => absurd rfl hstarted
  exact ⟨hinRange, hahead, rfl, ⟨rfl, rfl, rfl, rfl⟩, fun hstarted => absurd rfl hstarted, nofun⟩

end Sys2Proof.Machine
end

section
/-! The core's part of an instruction: `exec_coreMove` says once how each instruction moves the registers, the two memories
and the counters, and leaves the collaborators open. The writers of each register (O11) and the bank rendered ahead (O50)
are read off it. -/

namespace Sys2Proof.Machine

/-- The core's registers, memories and counters of `s`, in the surroundings of `e`: the collaborators' state, the
observations and the two marks. -/
def State.within (s e : State) : State :=
  { s with clkRun := e.clkRun, xfer := e.xfer, tcPend := e.tcPend, pulse := e.pulse, pcPend := e.pcPend, oeN := e.oeN,
           latched := e.latched, dataLines := e.dataLines, cmds := e.cmds, displays := e.displays,
           fault := e.fault, refused := e.refused }

@[simp] theorem within_cfg (s e : State) : (s.within e).cfg = s.cfg := rfl
@[simp] theorem within_rp (s e : State) : (s.within e).rp = s.rp := rfl
@[simp] theorem within_ph (s e : State) : (s.within e).ph = s.ph := rfl
@[simp] theorem within_ab (s e : State) : (s.within e).ab = s.ab := rfl
@[simp] theorem within_skip (s e : State) : (s.within e).skip = s.skip := rfl
@[simp] theorem within_fbref (s e : State) : (s.within e).fbref = s.fbref := rfl
@[simp] theorem within_proto (s e : State) : (s.within e).proto = s.proto := rfl
@[simp] theorem within_rowaddr (s e : State) : (s.within e).rowaddr = s.rowaddr := rfl
@[simp] theorem within_rc (s e : State) : (s.within e).rc = s.rc := rfl
@[simp] theorem within_lb0 (s e : State) : (s.within e).lb0 = s.lb0 := rfl
@[simp] theorem within_lb1 (s e : State) : (s.within e).lb1 = s.lb1 := rfl
@[simp] theorem within_nLoad (s e : State) : (s.within e).nLoad = s.nLoad := rfl
@[simp] theorem within_nRender (s e : State) : (s.within e).nRender = s.nRender := rfl
@[simp] theorem within_fb (s e : State) : (s.within e).fb = s.fb := rfl
@[simp] theorem within_inputs (s e : State) : (s.within e).inputs = s.inputs := rfl

@[simp] theorem within_within (s e e' : State) : (s.within e).within e' = s.within e' := rfl

@[simp] theorem setRowaddr_within (r : RowPair) (s e : State) : setRowaddr r (s.within e) = (setRowaddr r s).within e := rfl

@[simp] theorem setActive_within (b : BankIx) (s e : State) : setActive b (s.within e) = (setActive b s).within e := rfl

/-! ### Operations -/

/-- Of the core a command changes what open use changes: the row address, by SET_ROW (R98). -/
theorem applyCommand_within {c : Command} {s t : State} (h : applyCommand c s = .ok t) :
    ∃ e, t = (openEffect c s).within e := by
  cases c with
  | armPulse d => exact ⟨t, by rw [eq_of_armPulse_ok h]; rfl⟩
  | startTransfer b => exact ⟨t, by rw [eq_of_startTransfer_ok h]; rfl⟩
  | ackTransfer | ackPulse | stopClock | startClock | setRow r | gammaResult v => exact ⟨t, by cases h; rfl⟩

theorem deliver_within {c : Command} {s t : State} (h : deliver c s = .ok t) : ∃ e, t = (openEffect c s).within e := by
  obtain ⟨e, rfl⟩ := applyCommand_within h
  exact ⟨e, by cases c <;> rfl⟩

/-- An emission changes the same of the core in both uses (R14, D16). -/
theorem emit_within {c : Command} {s t : State} (h : emit c s = .ok t) : ∃ e, t = (openEffect c s).within e := by
  cases hu : s.cfg.use with
  | openUse =>
    rw [emit_open c hu] at h
    exact ⟨t, by cases h; cases c <;> rfl⟩
  | closedUse =>
    rw [emit_closed c hu] at h
    exact deliver_within h

theorem emit_bind_eq_ok {c : Command} {s t : State} {f : State → Except FaultRecord State}
    (h : (emit c s >>= f) = .ok t) : ∃ e, f ((openEffect c s).within e) = .ok t := by
  obtain ⟨u, hu, hf⟩ := bind_eq_ok_iff.1 h
  obtain ⟨e, rfl⟩ := emit_within hu
  exact ⟨e, hf⟩

theorem loadRowCache_eq_ok {r : RowPair} {s t : State} (h : loadRowCache r s = .ok t) :
    ∃ hd, loadHandle r s = some hd ∧ t = storeLoad r hd s := by
  obtain ⟨-, he⟩ | ⟨hd, hhd, hok⟩ := loadRowCache_cases r s
  · rw [he] at h; cases h
  · rw [hok] at h; cases h; exact ⟨hd, hhd, rfl⟩

theorem loadRowCache_bind_eq_ok {r : RowPair} {s t : State} {f : State → Except FaultRecord State}
    (h : (loadRowCache r s >>= f) = .ok t) : ∃ hd, loadHandle r s = some hd ∧ f (storeLoad r hd s) = .ok t := by
  obtain ⟨u, hu, hf⟩ := bind_eq_ok_iff.1 h
  obtain ⟨hd, hhd, rfl⟩ := loadRowCache_eq_ok hu
  exact ⟨hd, hhd, hf⟩

theorem renderPhase_eq_ok {p : Phase} {b : BankIx} {s t : State} (h : renderPhase p b s = .ok t) :
    t = storeRender p b s := by
  obtain ⟨c, k, -, he⟩ | ⟨-, hok⟩ := renderPhase_cases p b s
  · rw [he] at h; cases h
  · rw [hok] at h; cases h; rfl

theorem renderPhase_bind_eq_ok {p : Phase} {b : BankIx} {s t : State} {f : State → Except FaultRecord State}
    (h : (renderPhase p b s >>= f) = .ok t) : f (storeRender p b s) = .ok t := by
  obtain ⟨u, hu, hf⟩ := bind_eq_ok_iff.1 h
  rwa [renderPhase_eq_ok hu] at hf

/-! ### What START, TRANSFER_COMPLETE and PULSE_COMPLETE leave in the core -/

/-- After START: the load of row pair 0, and its phases 0 and 1 in the two banks (R80). -/
def primedFrom (hd : Handle) (s : State) : State :=
  setProto .awaitTC (storeRender 1 1 (setActive 1 (storeRender 0 0 (storeLoad 0 hd (setActive 0 (setPhase 0 (setRowPair 0 s)))))))

/-- After the deferred reload: the load of the next row pair, and its phase 0 in the active bank (R81). -/
def reloadedFrom (hd : Handle) (s : State) : State :=
  storeRender 0 s.ab (setPhase 0 (storeLoad (s.rp + 1) hd (setRowPair (s.rp + 1) (setPhase 9 s))))

/-- After PULSE_COMPLETE's emissions and the flip of `ab` (R84). -/
def flipped (s : State) : State := setActive (otherBank s.ab) (setRowaddr s.rp s)

/-- The next phase, rendered into the bank that is active after the flip (R84). -/
def nextPhaseRendered (s : State) : State :=
  storeRender (s.ph + 1) (otherBank s.ab) (setPhase (s.ph + 1) (flipped s))

theorem primePipeline_within {s t : State} (h : primePipeline s = .ok t) :
    ∃ hd e, loadHandle 0 s = some hd ∧ t = (primedFrom hd s).within e := by
  obtain ⟨hd, hhd, hrender⟩ := loadRowCache_bind_eq_ok h
  obtain ⟨e₁, hclock⟩ := emit_bind_eq_ok (renderPhase_bind_eq_ok hrender)
  obtain ⟨e₂, hahead⟩ := emit_bind_eq_ok hclock
  cases renderPhase_bind_eq_ok hahead
  exact ⟨hd, e₂, hhd, rfl⟩

/-- The reload is made exactly where its mark, `ph = 0`, is set (R83). -/
theorem reloadIfPending_eq_ok {s t : State} (h : reloadIfPending s = .ok t) :
    (s.ph ≠ 0 ∧ t = s) ∨ ∃ hd, s.ph = 0 ∧ loadHandle (s.rp + 1) s = some hd ∧ t = reloadedFrom hd s := by
  by_cases hp : s.ph = 0
  · rw [reloadIfPending, if_pos hp] at h
    obtain ⟨hd, hhd, hrender⟩ := loadRowCache_bind_eq_ok h
    exact .inr ⟨hd, hp, hhd, renderPhase_eq_ok hrender⟩
  · rw [reloadIfPending_of_ne hp] at h
    cases h
    exact .inl ⟨hp, rfl⟩

theorem transferDone_within {s t : State} (h : transferDone s = .ok t) :
    (s.ph ≠ 0 ∧ ∃ e, t = (setProto .awaitPC s).within e) ∨
    ∃ hd e, s.ph = 0 ∧ loadHandle (s.rp + 1) s = some hd ∧ t = (setProto .awaitPC (reloadedFrom hd s)).within e := by
  obtain ⟨e₁, hpulse⟩ := emit_bind_eq_ok h
  obtain ⟨e₂, hclock⟩ := emit_bind_eq_ok hpulse
  obtain ⟨e₃, hrest⟩ := emit_bind_eq_ok hclock
  simp only [openEffect_ackTransfer, openEffect_armPulse, openEffect_stopClock, within_within] at hrest
  obtain ⟨u, hreload, hproto⟩ := bind_eq_ok_iff.1 hrest
  cases hproto
  obtain ⟨hp, rfl⟩ | ⟨hd, hp, hhd, rfl⟩ := reloadIfPending_eq_ok hreload
  · exact .inl ⟨hp, e₃, rfl⟩
  · exact .inr ⟨hd, e₃, hp, hhd, rfl⟩

theorem advancePhase_eq_ok {s t : State} (h : advancePhase s = .ok t) :
    (s.ph < 9 ∧ t = storeRender (s.ph + 1) s.ab (setPhase (s.ph + 1) s)) ∨ (¬ s.ph < 9 ∧ t = setPhase 0 s) := by
  by_cases hp : s.ph < 9
  · rw [advancePhase, if_pos hp] at h
    exact .inl ⟨hp, renderPhase_eq_ok h⟩
  · rw [advancePhase, if_neg hp] at h
    cases h
    exact .inr ⟨hp, rfl⟩

theorem pulseDone_within {s t : State} (h : pulseDone s = .ok t) :
    (s.ph < 9 ∧ ∃ e, t = (setProto .awaitTC (nextPhaseRendered s)).within e) ∨
    (¬ s.ph < 9 ∧ ∃ e, t = (setProto .awaitTC (setPhase 0 (flipped s))).within e) := by
  obtain ⟨e₁, hrow⟩ := emit_bind_eq_ok h
  obtain ⟨e₂, hsend⟩ := emit_bind_eq_ok hrow
  obtain ⟨e₃, hclock⟩ := emit_bind_eq_ok hsend
  obtain ⟨e₄, hrest⟩ := emit_bind_eq_ok hclock
  simp only [openEffect_ackPulse, openEffect_setRow, openEffect_startTransfer, openEffect_startClock, within_rp, within_ab,
    setRowaddr_ab, setRowaddr_within, setActive_within, within_within] at hrest
  obtain ⟨u, hadvance, hproto⟩ := bind_eq_ok_iff.1 hrest
  cases hproto
  obtain ⟨hp, rfl⟩ | ⟨hp, rfl⟩ := advancePhase_eq_ok hadvance
  · exact .inl ⟨hp, e₄, rfl⟩
  · exact .inr ⟨hp, e₄, rfl⟩

/-! ### Instructions -/

/-- The ways an instruction takes the core from `s`; the surroundings of the new state are left open. -/
inductive CoreMove (s : State) : Instr → State → Prop
  /-- A fault, or an instruction that only emits or commands a collaborator. -/
  | stay (i : Instr) : CoreMove s i s
  | row (r : RowPair) : CoreMove s (.setRow r) (setRowaddr r s)
  | skip (n : BitVec 4) : CoreMove s (.setBrightnessSkip n) { s with skip := n }
  | framebuffer (hd : Handle) : CoreMove s (.setFramebuffer hd) { s with fbref := some hd }
  | load (r : RowPair) (hd : Handle) (hidle : s.proto = .idle) (hhd : loadHandle r s = some hd) :
      CoreMove s (.tLoad r) (storeLoad r hd s)
  | render (p : Phase) (b : BankIx) (hidle : s.proto = .idle) : CoreMove s (.tRender p b) (storeRender p b s)
  | start (hd : Handle) (hidle : s.proto = .idle) (hhd : loadHandle 0 s = some hd) : CoreMove s .start (primedFrom hd s)
  | dwell (hawait : s.proto = .awaitTC) (hp : s.ph ≠ 0) : CoreMove s .transferComplete (setProto .awaitPC s)
  | reload (hd : Handle) (hawait : s.proto = .awaitTC) (hp : s.ph = 0) (hhd : loadHandle (s.rp + 1) s = some hd) :
      CoreMove s .transferComplete (setProto .awaitPC (reloadedFrom hd s))
  | nextPhase (hawait : s.proto = .awaitPC) (hp : s.ph < 9) :
      CoreMove s .pulseComplete (setProto .awaitTC (nextPhaseRendered s))
  | lastPhase (hawait : s.proto = .awaitPC) (hp : ¬ s.ph < 9) :
      CoreMove s .pulseComplete (setProto .awaitTC (setPhase 0 (flipped s)))

/-- The whole step of an operation: it moves the core as its success does, or faults and leaves the core. -/
theorem commit_coreMove {i : Instr} {s t : State} {r : Except FaultRecord State} (h : commit s r = .next t)
    (hr : ∀ u, r = .ok u → ∃ c e, CoreMove s i c ∧ u = c.within e) : ∃ c e, CoreMove s i c ∧ t = c.within e := by
  obtain hok | ⟨f, -, rfl⟩ := commit_cases h
  · exact hr t hok
  · exact ⟨s, raiseFault f s, .stay i, rfl⟩

/-- An operation behind a protocol check succeeds only where the check holds. -/
theorem of_guard_eq_ok {c : Prop} [Decidable c] {r : Except FaultRecord State} {f : FaultRecord} {t : State}
    (h : (if c then r else .error f) = .ok t) : c ∧ r = .ok t := by
  split at h
  next hc => exact ⟨hc, h⟩
  next => cases h

/-- Every instruction moves the core in one of the ways of `CoreMove`. -/
theorem exec_coreMove {i : Instr} {s t : State} (h : exec i s = .next t) : ∃ c e, CoreMove s i c ∧ t = c.within e := by
  cases i with
  | start =>
    refine commit_coreMove h fun u hu => ?_
    obtain ⟨hidle, hu⟩ := of_guard_eq_ok hu
    obtain ⟨hd, e, hhd, rfl⟩ := primePipeline_within hu
    exact ⟨_, e, .start hd hidle hhd, rfl⟩
  | transferComplete =>
    refine commit_coreMove h fun u hu => ?_
    obtain ⟨hawait, hu⟩ := of_guard_eq_ok hu
    obtain ⟨hp, e, rfl⟩ | ⟨hd, e, hp, hhd, rfl⟩ := transferDone_within hu
    · exact ⟨_, e, .dwell hawait hp, rfl⟩
    · exact ⟨_, e, .reload hd hawait hp hhd, rfl⟩
  | pulseComplete =>
    refine commit_coreMove h fun u hu => ?_
    obtain ⟨hawait, hu⟩ := of_guard_eq_ok hu
    obtain ⟨hp, e, rfl⟩ | ⟨hp, e, rfl⟩ := pulseDone_within hu
    · exact ⟨_, e, .nextPhase hawait hp, rfl⟩
    · exact ⟨_, e, .lastPhase hawait hp, rfl⟩
  | setBrightnessSkip n => cases h; exact ⟨_, s, .skip n, rfl⟩
  | setFramebuffer hd => cases h; exact ⟨_, s, .framebuffer hd, rfl⟩
  | tGamma x =>
    refine commit_coreMove h fun u hu => ?_
    obtain ⟨e, rfl⟩ := emit_within (of_guard_eq_ok hu).2
    exact ⟨_, e, .stay _, rfl⟩
  | tLoad r =>
    refine commit_coreMove h fun u hu => ?_
    obtain ⟨hidle, hu⟩ := of_guard_eq_ok hu
    obtain ⟨hd, hhd, rfl⟩ := loadRowCache_eq_ok hu
    exact ⟨_, _, .load r hd hidle hhd, rfl⟩
  | tRender p b =>
    refine commit_coreMove h fun u hu => ?_
    obtain ⟨hidle, hu⟩ := of_guard_eq_ok hu
    obtain rfl := renderPhase_eq_ok hu
    exact ⟨_, _, .render p b hidle, rfl⟩
  | setRow r =>
    refine commit_coreMove (commit_deliver_of_exec h rfl) fun u hu => ?_
    obtain ⟨e, rfl⟩ := deliver_within hu
    exact ⟨_, e, .row r, rfl⟩
  | ackTransfer | ackPulse | armPulse d | stopClock | startClock | startTransfer b | gammaResult v =>
    refine commit_coreMove (commit_deliver_of_exec h rfl) fun u hu => ?_
    obtain ⟨e, rfl⟩ := deliver_within hu
    exact ⟨_, e, .stay _, rfl⟩

/-- Settles O11, by the ways of `CoreMove`: each names its instruction and is written out as updates of single registers, so
a register that none of them writes is as before. -/
theorem eachRegisterHasItsWriters : Obligations.EachRegisterHasItsWriters := by
  intro i s t h
  obtain ⟨c, e, hmove, rfl⟩ := exec_coreMove h
  cases hmove <;> simp [primedFrom, reloadedFrom, flipped, nextPhaseRendered]

end Sys2Proof.Machine
end

section
/-! The bank rendered ahead (R31 items 2 to 4): each way an instruction moves the core keeps it (O50). -/

namespace Sys2Proof.Machine

/-- From `s`, ahead with `h` and `k`, to `t`: ahead with a framebuffer that only a load changes and a skip that only a
render changes, so that a move that `keepsSkip` stays ahead with the skip register. -/
def AheadAfter (s t : State) (h : Handle) (k : BitVec 4) (keepsSkip : Prop) : Prop :=
  ∃ (h' : Handle) (k' : BitVec 4), t.renderedAhead h' k' ∧
    (if t.nLoad = s.nLoad then h' = h else loadHandle t.rp s = some h') ∧
    (if t.nRender = s.nRender then k' = k else k' = s.skip) ∧
    (k = s.skip → keepsSkip → k' = t.skip)

section

variable {s t : State} {h : Handle} {k : BitVec 4} {P : Prop}

/-- Neither a load nor a render. -/
theorem AheadAfter.kept (ht : t.renderedAhead h k) (hl : t.nLoad = s.nLoad) (hr : t.nRender = s.nRender)
    (hs : P → t.skip = s.skip) : AheadAfter s t h k P :=
  ⟨h, k, ht, by rw [if_pos hl], by rw [if_pos hr], fun hk hp => hk.trans (hs hp).symm⟩

/-- A render, of what was loaded. -/
theorem AheadAfter.rendered (ht : t.renderedAhead h s.skip) (hl : t.nLoad = s.nLoad) (hr : t.nRender ≠ s.nRender)
    (hs : t.skip = s.skip) : AheadAfter s t h k P :=
  ⟨h, s.skip, ht, by rw [if_pos hl], by rw [if_neg hr], fun _ _ => hs.symm⟩

/-- A load, and a render of it. -/
theorem AheadAfter.loaded {h' : Handle} (ht : t.renderedAhead h' s.skip) (hl : t.nLoad ≠ s.nLoad)
    (hh : loadHandle t.rp s = some h') (hr : t.nRender ≠ s.nRender) (hs : t.skip = s.skip) : AheadAfter s t h k P :=
  ⟨h', s.skip, ht, by rwa [if_neg hl], by rw [if_neg hr], fun _ _ => hs.symm⟩

theorem AheadAfter.imp {Q : Prop} (hst : AheadAfter s t h k P) (hQ : Q → P) : AheadAfter s t h k Q := by
  obtain ⟨h', k', ht, hl, hr, hs⟩ := hst
  exact ⟨h', k', ht, hl, hr, fun hk hq => hs hk (hQ hq)⟩

/-! ### Instructions -/

/-- START: `ph` is 0 in `AwaitTC`, the mark of a pending reload (R83), so only the row cache is in question. -/
theorem primedFrom_renderedAhead (hd : Handle) (s : State) (k : BitVec 4) : (primedFrom hd s).renderedAhead hd k := by
  refine fun _ => ⟨rfl, fun hsends => ?_⟩
  simp [primedFrom] at hsends

/-- The deferred reload renders phase 0 of what it loads into the active bank. -/
theorem reloadedFrom_renderedAhead (hd : Handle) (s : State) :
    (setProto .awaitPC (reloadedFrom hd s)).renderedAhead hd s.skip :=
  fun _ => ⟨rfl, fun _ => bank_storeRender_same 0 s.ab _⟩

/-- The next phase is rendered from the row cache as it stands into the bank that becomes active. -/
theorem nextPhaseRendered_renderedAhead (hs : s.renderedAhead h k) (hawait : s.proto = .awaitPC) :
    (setProto .awaitTC (nextPhaseRendered s)).renderedAhead h s.skip := by
  obtain ⟨hrc, -⟩ := hs (by simp [hawait])
  exact fun _ => ⟨hrc, fun _ => bank_storeRender_same (s.ph + 1) (otherBank s.ab) _⟩

/-- After the last phase `ph` is 0 in `AwaitTC`: a reload is pending. -/
theorem lastPhase_renderedAhead (hs : s.renderedAhead h k) (hawait : s.proto = .awaitPC) :
    (setProto .awaitTC (setPhase 0 (flipped s))).renderedAhead h k := by
  obtain ⟨hrc, -⟩ := hs (by simp [hawait])
  exact fun _ => ⟨hrc, by simp⟩

/-- TRANSFER_COMPLETE without a reload: the bank that was ahead is the one that PULSE_COMPLETE sends. -/
theorem dwell_renderedAhead (hs : s.renderedAhead h k) (hawait : s.proto = .awaitTC) (hp : s.ph ≠ 0) :
    (setProto .awaitPC s).renderedAhead h k := by
  obtain ⟨hrc, hbank⟩ := hs (by simp [hawait])
  exact fun _ => ⟨hrc, fun _ => hbank (.inr hp)⟩

/-- Every way an instruction moves the core keeps the bank ahead, and only SET_BRIGHTNESS_SKIP moves the skip away from
it. The test port moves the core in `Idle` alone, where nothing is asked. -/
theorem CoreMove.aheadAfter {i : Instr} {c : State} (hmove : CoreMove s i c) (hs : s.renderedAhead h k)
    (hstarted : c.proto ≠ .idle) : AheadAfter s c h k (∀ n, i ≠ .setBrightnessSkip n) := by
  cases hmove with
  | stay => exact .kept hs rfl rfl fun _ => rfl
  | row r => exact .kept hs rfl rfl fun _ => rfl
  | skip n => exact .kept hs rfl rfl fun hother => absurd rfl (hother n)
  | framebuffer hd => exact .kept hs rfl rfl fun _ => rfl
  | load r hd hidle hhd => exact absurd hidle hstarted
  | render p b hidle => exact absurd hidle hstarted
  | start hd hidle hhd =>
    exact .loaded (primedFrom_renderedAhead hd s _) (by simp [primedFrom]) hhd (by simp [primedFrom, Nat.add_assoc]) rfl
  | dwell hawait hp => exact .kept (dwell_renderedAhead hs hawait hp) rfl rfl fun _ => rfl
  | reload hd hawait hp hhd =>
    exact .loaded (reloadedFrom_renderedAhead hd s) (by simp [reloadedFrom]) hhd (by simp [reloadedFrom]) rfl
  | nextPhase hawait hp =>
    exact .rendered (nextPhaseRendered_renderedAhead hs hawait) rfl (by simp [nextPhaseRendered, flipped]) rfl
  | lastPhase hawait hp => exact .kept (lastPhase_renderedAhead hs hawait) rfl rfl fun _ => rfl

theorem exec_aheadAfter {i : Instr} (hs : s.renderedAhead h k) (he : exec i s = .next t) (hstarted : t.proto ≠ .idle) :
    AheadAfter s t h k (∀ n, i ≠ .setBrightnessSkip n) := by
  obtain ⟨c, e, hmove, rfl⟩ := exec_coreMove he
  exact hmove.aheadAfter hs hstarted

/-! ### Steps -/

/-- An operation word is its opcode, bits 11 to 4 and bits 3 to 0. -/
theorem opcodeOf_append_opFields (w : BitVec 16) : opcodeOf w ++ opField w 4 8 ++ opField w 0 4 = w := by
  ext i hi
  simp only [opcodeOf, opField, BitVec.getElem_append, BitVec.getElem_extractLsb']
  grind

theorem decodeOp_eq_setBrightnessSkip {w : BitVec 16} {n : BitVec 4} (hd : decodeOp w = .ok (.setBrightnessSkip n)) :
    opcodeOf w = 0x4#4 ∧ opField w 4 8 = 0 ∧ opField w 0 4 = n := by
  unfold decodeOp requireZero at hd
  split at hd
  case h_4 hop =>
    split at hd
    next hzero =>
      split at hd
      · cases hd; exact ⟨hop, hzero, rfl⟩
      · cases hd
    next => cases hd
  all_goals (repeat' split at hd) <;> cases hd

theorem decodeCmd_ne_setBrightnessSkip (w : BitVec 32) (n : BitVec 4) : decodeCmd w ≠ some (.setBrightnessSkip n) := by
  intro hd
  unfold decodeCmd at hd
  split at hd <;> (repeat' split at hd) <;> cases hd

/-- Only its own word is read as SET_BRIGHTNESS_SKIP (R59, R61). -/
theorem eq_encode_of_decode_setBrightnessSkip {w : PortWord} {n : BitVec 4} (hd : decode w = .ok (.setBrightnessSkip n)) :
    w = encode (.setBrightnessSkip n) := by
  cases w with
  | op w =>
    cases hw : decodeOp w with
    | error c => simp [decode, hw] at hd
    | ok i =>
      simp only [decode, hw, Except.ok.injEq] at hd
      subst hd
      obtain ⟨hop, hzero, hn⟩ := decodeOp_eq_setBrightnessSkip hw
      have hparts := opcodeOf_append_opFields w
      rw [hop, hzero, hn] at hparts
      exact congrArg PortWord.op hparts.symm
  | cmd w =>
    cases hw : decodeCmd w with
    | none => simp [decode, hw] at hd
    | some i =>
      simp only [decode, hw, Except.ok.injEq] at hd
      subst hd
      exact absurd hw (decodeCmd_ne_setBrightnessSkip w n)

theorem event_ne_setBrightnessSkip {a : Agent} {i : Instr} (ha : eventOf a = some i) (n : BitVec 4) :
    i ≠ .setBrightnessSkip n := by
  cases a <;> cases ha <;> nofun

/-- A byte step moves the collaborators alone (R103). -/
theorem byteStep_within (s : State) : ∃ e, byteStep s = s.within e := by
  refine ⟨byteStep s, ?_⟩
  unfold byteStep
  split
  · rfl
  · split
    · unfold advanceTransfer
      split <;> rfl
    · rfl

/-- A host write of a sample of another framebuffer leaves the load of `h` (R52). -/
theorem hostWrite_renderedAhead {hd : Handle} (y x : BitVec 6) (ch : Fin 3) (v : Sample) (hne : hd ≠ h)
    (hs : s.renderedAhead h k) :
    { s with fb := Memory.write s.fb (sampleKey hd y.toNat x.toNat ch.val) v }.renderedAhead h k := by
  intro hstarted
  obtain ⟨hrc, hbank⟩ := hs hstarted
  exact ⟨hrc.trans (loadedCache_write_other hne).symm, hbank⟩

end

/-- Settles O50, by the ways of a step: an instruction moves the core as `CoreMove.aheadAfter` says; everything else leaves
the core, but for the host's write, which is to another framebuffer than the loaded one. -/
theorem stepKeepsTheBankRenderedAhead : Obligations.StepKeepsTheBankRenderedAhead := by
  intro s t h k hs halone hstep hstarted
  obtain ⟨-, -, hmove⟩ := step_moves hstep
  suffices hafter : AheadAfter s t h k (∀ n rest, s.inputs ≠ .word (encode (.setBrightnessSkip n)) :: rest) from hafter
  cases hmove with
  | word w ins i hin hd he =>
    have hafter : AheadAfter s t h k _ := exec_aheadAfter (s := { s with inputs := ins }) hs he hstarted
    refine hafter.imp fun hother n hi => hother n ins ?_
    rw [hin, eq_encode_of_decode_setBrightnessSkip (hd.trans (congrArg _ hi))]
  | event ins a i ha hen he =>
    have hafter : AheadAfter s t h k _ := exec_aheadAfter (s := { s with inputs := ins }) hs he hstarted
    exact hafter.imp fun _ => event_ne_setBrightnessSkip ha
  | byte ins hen ht =>
    obtain ⟨e, hbyte⟩ := byteStep_within { s with inputs := ins }
    rw [ht, hbyte]
    exact .kept hs rfl rfl fun _ => rfl
  | pulse ins hen ht => rw [ht]; exact .kept hs rfl rfl fun _ => rfl
  | refusal ins c ht => rw [ht]; exact .kept hs rfl rfl fun _ => rfl
  | host ins hd y x ch v hin hni ht =>
    have hne : hd ≠ h := fun heq => halone y x ch v ins (heq ▸ hin)
    rw [ht]
    exact .kept (hostWrite_renderedAhead y x ch v hne hs) rfl rfl fun _ => rfl
  | wait ins ht => rw [ht]; exact .kept hs rfl rfl fun _ => rfl

end Sys2Proof.Machine
end

section
/-! The storage spaces (20_memory.md): no step writes the configuration (O10), the Gamma LUT reads as its admitted table (O13), a
swap and a new skip leave the banks and are seen by the next load and the next render (O36, O37), and a host write is local to
its sample (O47). -/

namespace Sys2Proof.Machine

/-! ### The configuration (R11, R34) -/

theorem CoreMove.cfg_eq {s c : State} {i : Instr} (hmove : CoreMove s i c) : c.cfg = s.cfg := by
  cases hmove <;> rfl

theorem exec_cfg {i : Instr} {s t : State} (h : exec i s = .next t) : t.cfg = s.cfg := by
  obtain ⟨c, e, hmove, rfl⟩ := exec_coreMove h
  exact hmove.cfg_eq

theorem byteStep_cfg (s : State) : (byteStep s).cfg = s.cfg := by
  obtain ⟨e, hbyte⟩ := byteStep_within s
  rw [hbyte, within_cfg]

/-- Settles O10, by the ways of a step: no instruction writes the parameters, and the environment's moves do not either. -/
theorem noStepWritesTheConfiguration : Obligations.NoStepWritesTheConfiguration := by
  intro s t hstep
  obtain ⟨-, -, hmove⟩ := step_moves hstep
  cases hmove with
  | word w ins i hin hd he => exact exec_cfg (s := { s with inputs := ins }) he
  | event ins a i ha hen he => exact exec_cfg (s := { s with inputs := ins }) he
  | byte ins hen ht => rw [ht, byteStep_cfg]
  | pulse ins hen ht | refusal ins c ht | host ins h y x ch v hin hni ht | wait ins ht => subst ht; rfl

/-! ### The Gamma LUT (R34, R67) -/

theorem gammaAdmitted_of_configRefusal {cfg : Config} (h : configRefusal cfg = none) : gammaAdmitted cfg = true := by
  unfold configRefusal at h
  split at h
  next hadmitted => exact hadmitted
  next => cases h

/-- Settles O13: an admitted entry fits the 10 bits of the read, so the table's order is the order of the reads. -/
theorem gammaReadIsTheTableAndMonotone : Obligations.GammaReadIsTheTableAndMonotone := by
  intro cfg hcfg
  have hadmitted := gammaAdmitted_of_configRefusal hcfg
  obtain ⟨-, hrises⟩ := (gammaAdmitted_iff cfg).1 hadmitted
  refine ⟨fun i => ?_, fun i j hij => ?_⟩
  · simp [gammaRead_toNat cfg hadmitted]
  · rw [gammaRead_toNat cfg hadmitted, gammaRead_toNat cfg hadmitted]
    exact hrises ⟨i.toNat, i.isLt⟩ ⟨j.toNat, j.isLt⟩ hij

/-! ### The scheduler's steps in open use (R81, R84) -/

/-- The operation succeeds and leaves the core of `c`; its surroundings are left open. -/
def LeavesCore (r : Except FaultRecord State) (c : State) : Prop := ∃ e, r = .ok (c.within e)

/-- In open use an emission never faults, and what follows it runs in the core that `openEffect` leaves (R14, D16). -/
theorem LeavesCore.emit_bind {cmd : Command} {s c : State} {f : State → Except FaultRecord State}
    (hopen : s.cfg.use = .openUse) (hf : ∀ e, LeavesCore (f ((openEffect cmd s).within e)) c) :
    LeavesCore (emit cmd s >>= f) c := by
  have hemit := emit_open cmd hopen
  obtain ⟨e, he⟩ := emit_within hemit
  rw [hemit, ok_bind_op, he]
  exact hf e

theorem LeavesCore.bind_setProto {r : Except FaultRecord State} {c : State} (x : Proto) (h : LeavesCore r c) :
    LeavesCore (r >>= fun u => .ok (setProto x u)) (setProto x c) := by
  obtain ⟨e, rfl⟩ := h
  exact ⟨e, rfl⟩

theorem LeavesCore.commit {r : Except FaultRecord State} {c : State} (s : State) (h : LeavesCore r c) :
    ∃ e, commit s r = .next (c.within e) := by
  obtain ⟨e, rfl⟩ := h
  exact ⟨e, rfl⟩

/-- The emissions before the reload do not matter to it. -/
theorem reloadIfPending_leavesCore {s : State} {hd : Handle} (e : State) (hp : s.ph = 0)
    (hhd : loadHandle (s.rp + 1) s = some hd) : LeavesCore (reloadIfPending (s.within e)) (reloadedFrom hd s) :=
  ⟨e, reloadIfPending_pending hp rfl rfl rfl rfl hhd⟩

theorem advancePhase_leavesCore {s : State} (e : State) (hp : s.ph.toNat < 9) (hfull : CacheFull s.rc) :
    LeavesCore (advancePhase ((flipped s).within e)) (nextPhaseRendered s) :=
  ⟨e, advancePhase_render hp ((firstUnwritten_eq_none_iff s.rc).2 hfull)⟩

/-- TRANSFER_COMPLETE with the reload pending, in open use, where no collaborator can be busy. -/
theorem exec_transferComplete_reloads {s : State} {hd : Handle} (hawait : s.proto = .awaitTC)
    (hopen : s.cfg.use = .openUse) (hp : s.ph = 0) (hhd : loadHandle (s.rp + 1) s = some hd) :
    ∃ e, exec .transferComplete s = .next ((setProto .awaitPC (reloadedFrom hd s)).within e) := by
  have hdone : LeavesCore (transferDone s) (setProto .awaitPC (reloadedFrom hd s)) := by
    unfold transferDone
    refine .emit_bind hopen fun _ => .emit_bind hopen fun _ => .emit_bind hopen fun e => ?_
    simp only [openEffect_ackTransfer, openEffect_armPulse, openEffect_stopClock, within_within]
    exact .bind_setProto _ (reloadIfPending_leavesCore e hp hhd)
  rw [exec, execTransferComplete, if_pos hawait]
  exact hdone.commit s

/-- PULSE_COMPLETE below the last phase, in open use, with a full row cache. -/
theorem exec_pulseComplete_renders {s : State} (hawait : s.proto = .awaitPC) (hopen : s.cfg.use = .openUse)
    (hp : s.ph.toNat < 9) (hfull : CacheFull s.rc) :
    ∃ e, exec .pulseComplete s = .next ((setProto .awaitTC (nextPhaseRendered s)).within e) := by
  have hdone : LeavesCore (pulseDone s) (setProto .awaitTC (nextPhaseRendered s)) := by
    unfold pulseDone
    refine .emit_bind hopen fun _ => .emit_bind hopen fun _ => .emit_bind hopen fun _ => .emit_bind hopen fun e => ?_
    simp only [openEffect_ackPulse, openEffect_setRow, openEffect_startTransfer, openEffect_startClock, within_rp, within_ab,
      setRowaddr_ab, setRowaddr_within, setActive_within, within_within]
    exact .bind_setProto _ (advancePhase_leavesCore e hp hfull)
  rw [exec, execPulseComplete, if_pos hawait]
  exact hdone.commit s

/-- A reload renders into the active bank only (R46). -/
theorem bank_reloadedFrom_other (hd : Handle) (s : State) :
    (reloadedFrom hd s).bank (otherBank s.ab) = s.bank (otherBank s.ab) :=
  bank_storeRender_other (otherBank_ne s.ab)

/-- In the variant the latched framebuffer is the one that the load reads (R71). -/
theorem fbframe_reloadedFrom (hd : Handle) {s : State} (hlatch : s.cfg.fbLatchAtFrame = true) :
    (reloadedFrom hd s).fbframe = loadHandle (s.rp + 1) s :=
  (if_pos hlatch).symm

theorem bank_nextPhaseRendered_active (s : State) :
    (nextPhaseRendered s).bank (otherBank s.ab) = renderedBank s.cfg s.rc (effectiveBit (s.ph + 1) s.skip) :=
  bank_storeRender_same (s.ph + 1) (otherBank s.ab) (setPhase (s.ph + 1) (flipped s))

theorem bank_nextPhaseRendered_other (s : State) : (nextPhaseRendered s).bank s.ab = s.bank s.ab :=
  bank_storeRender_other (otherBank_ne s.ab).symm

/-- Settles O36: SET_FRAMEBUFFER moves `fbref` alone, and the pending reload asks `loadHandle` for its framebuffer, which is
`fbref`, or in the variant `fbframe` for a row pair other than 0. -/
theorem swapIsSeenByTheNextLoad : Obligations.SwapIsSeenByTheNextLoad := by
  intro s h hawait hopen hp
  refine ⟨{ s with fbref := some h }, rfl, rfl, rfl, rfl, fun hnew => ?_, fun g hlatch hrow hframe => ?_⟩
  · have hload : loadHandle (s.rp + 1) { s with fbref := some h } = some h := by
      rcases hnew with hlatch | hrow
      · simp [loadHandle_eq, hlatch]
      · rw [loadHandle_eq, if_pos hrow, ite_self]
    obtain ⟨e, hexec⟩ := exec_transferComplete_reloads (s := { s with fbref := some h }) hawait hopen hp hload
    exact ⟨_, hexec, rfl, bank_reloadedFrom_other h _⟩
  · have hload : loadHandle (s.rp + 1) { s with fbref := some h } = some g := by
      rw [loadHandle_eq, if_pos hlatch, if_neg hrow, hframe]
    obtain ⟨e, hexec⟩ := exec_transferComplete_reloads (s := { s with fbref := some h }) hawait hopen hp hload
    exact ⟨_, hexec, rfl, (fbframe_reloadedFrom g (s := { s with fbref := some h }) hlatch).trans hload⟩

/-- Settles O37: SET_BRIGHTNESS_SKIP moves `skip` alone, and the next render reads it, into the bank that is not being
sent. -/
theorem skipIsSeenByTheNextRender : Obligations.SkipIsSeenByTheNextRender := by
  intro s n hawait hopen hp hfull _
  obtain ⟨e, hexec⟩ := exec_pulseComplete_renders (s := { s with skip := n }) hawait hopen hp hfull
  exact ⟨{ s with skip := n }, _, rfl, rfl, rfl, hexec, bank_nextPhaseRendered_active { s with skip := n },
    bank_nextPhaseRendered_other { s with skip := n }⟩

/-! ### The framebuffer memory (R37, R52) -/

theorem fbRead_write_same (m : Memory) (h : Handle) (y x ch : Nat) (v : Sample) :
    fbRead (Memory.write m (sampleKey h y x ch) v) h y x ch = v :=
  Memory.read_write_same m _ v

/-- Another place of the grid has another key. -/
theorem fbRead_write_other (m : Memory) {h h' : Handle} {y x y' x' : BitVec 6} {ch ch' : Fin 3} (v : Sample)
    (hne : ¬ (h' = h ∧ y' = y ∧ x' = x ∧ ch' = ch)) :
    fbRead (Memory.write m (sampleKey h y.toNat x.toNat ch.val) v) h' y'.toNat x'.toNat ch'.val =
      fbRead m h' y'.toNat x'.toNat ch'.val := by
  refine Memory.read_write_other m v fun hkey => hne ?_
  obtain ⟨hh, hy, hx, hch⟩ := sampleKey_injective y'.isLt y.isLt x'.isLt x.isLt ch'.isLt ch.isLt hkey
  exact ⟨hh, BitVec.eq_of_toNat_eq hy, BitVec.eq_of_toNat_eq hx, Fin.ext hch⟩

theorem installed_iff (s : State) (h : Handle) :
    installed s h = true ↔ s.fbref = some h ∨ (s.cfg.fbLatchAtFrame = true ∧ s.fbframe = some h) := by
  simp [installed]

/-- The schedule's host write is the step of an enabled machine. -/
theorem step_hostSample {s : State} {rest : List Input} {h : Handle} {y x : BitVec 6} {ch : Fin 3} {v : Sample}
    (hready : s.ready) (hin : s.inputs = .hostSample h y x ch v :: rest) :
    step s = hostSampleStep h y x ch v { s with inputs := rest } := by
  rw [step_ready hready, fetchInput, hin, runFetch_answer]

/-- Settles O47: a host write of a framebuffer that is not installed is one write of the memory, under a key that no other
place has. -/
theorem hostSampleWriteIsLocal : Obligations.HostSampleWriteIsLocal := by
  intro s rest h y x ch v hready hin
  rw [step_hostSample hready hin]
  refine ⟨fun href hframe => ?_, fun hinst => ?_⟩
  · have hfree : ¬ installed { s with inputs := rest } h = true := by
      rw [installed_iff]
      rintro (hinst | ⟨hlatch, hinst⟩)
      · exact href hinst
      · exact hframe hlatch hinst
    exact ⟨_, if_neg hfree, fbRead_write_same s.fb h _ _ _ v, fun h' y' x' ch' hne => fbRead_write_other s.fb v hne⟩
  · exact if_pos ((installed_iff { s with inputs := rest } h).2 hinst)

end Sys2Proof.Machine
end

section
/-! The encoding (30_encoding.md): decoding gives a well-formed instruction back (O1), and only from its own word (O2); the
words of the tables (O3); which operation words are refused (O4). -/

namespace Sys2Proof.Machine

/-- Settles O1: one law for each row of the table. -/
theorem decodeOfEncodeIsTheInstruction : Obligations.DecodeOfEncodeIsTheInstruction := by
  intro i
  cases i with
  | start => exact Laws.DecodeEncode.start
  | transferComplete => exact Laws.DecodeEncode.transferComplete
  | pulseComplete => exact Laws.DecodeEncode.pulseComplete
  | setBrightnessSkip n => exact Laws.DecodeEncode.setBrightnessSkip n
  | setFramebuffer h => exact Laws.DecodeEncode.setFramebuffer h
  | tGamma idx => exact Laws.DecodeEncode.tGamma idx
  | tLoad r => exact Laws.DecodeEncode.tLoad r
  | tRender p b => exact Laws.DecodeEncode.tRender p b
  | ackTransfer => exact Laws.DecodeEncode.ackTransfer
  | ackPulse => exact Laws.DecodeEncode.ackPulse
  | armPulse d => exact Laws.DecodeEncode.armPulse d
  | stopClock => exact Laws.DecodeEncode.stopClock
  | startClock => exact Laws.DecodeEncode.startClock
  | startTransfer b => exact Laws.DecodeEncode.startTransfer b
  | setRow r => exact Laws.DecodeEncode.setRow r
  | gammaResult v => exact Laws.DecodeEncode.gammaResult v

/-! ### Words put together from their fields -/

/-- Two neighbouring fields of a word are one field of it. -/
theorem extract_eq_append {k m n hi lo : Nat} {w : BitVec k} {x : BitVec m} {y : BitVec n} (hx : w.extractLsb' hi m = x)
    (hy : w.extractLsb' lo n = y) (hhi : hi = lo + n) : w.extractLsb' lo (m + n) = x ++ y := by
  rw [← hx, ← hy, BitVec.extractLsb'_append_extractLsb'_eq_extractLsb' hhi]

/-- The lower of two neighbouring fields stays as it is read: an operand. -/
theorem extract_eq_append_field {k m : Nat} {w : BitVec k} {x : BitVec m} (lo n : Nat)
    (hx : w.extractLsb' (lo + n) m = x) : w.extractLsb' lo (m + n) = x ++ w.extractLsb' lo n :=
  extract_eq_append hx rfl rfl

/-- All 16 bits of an operation word are the word. -/
theorem op_eq_of_extract {w x : BitVec 16} (h : w.extractLsb' 0 16 = x) : PortWord.op x = .op w := by
  rw [← h, extract_all]

/-- All 32 bits of a command word are the word. -/
theorem cmd_eq_of_extract {w x : BitVec 32} (h : w.extractLsb' 0 32 = x) : PortWord.cmd x = .cmd w := by
  rw [← h, extract_all]

theorem requireZero_eq_ok_iff {n : Nat} {z : BitVec n} {r : Except RefusalCode Instr} {i : Instr} :
    requireZero z r = .ok i ↔ z = 0 ∧ r = .ok i := by
  unfold requireZero
  split <;> simp_all

/-- R59, R61: an operation word is read only as the instruction whose word it is. -/
theorem encode_of_decodeOp {w : BitVec 16} {i : Instr} (hd : decodeOp w = .ok i) : encode i = .op w := by
  unfold decodeOp at hd
  split at hd
  case h_1 hop | h_2 hop | h_3 hop =>
    obtain ⟨hzero, hi⟩ := requireZero_eq_ok_iff.1 hd
    cases hi
    exact op_eq_of_extract (extract_eq_append hop hzero rfl)
  case h_4 hop =>
    obtain ⟨hzero, hi⟩ := requireZero_eq_ok_iff.1 hd
    split at hi
    · cases hi
      exact op_eq_of_extract (extract_eq_append_field 0 4 (extract_eq_append hop hzero rfl))
    · cases hi
  case h_5 hop =>
    cases hd
    exact op_eq_of_extract (extract_eq_append_field 0 12 hop)
  case h_6 hop =>
    obtain ⟨hzero, hi⟩ := requireZero_eq_ok_iff.1 hd
    cases hi
    exact op_eq_of_extract (extract_eq_append_field 0 8 (extract_eq_append hop hzero rfl))
  case h_7 hop =>
    obtain ⟨hzero, hi⟩ := requireZero_eq_ok_iff.1 hd
    cases hi
    exact op_eq_of_extract (extract_eq_append_field 0 5 (extract_eq_append hop hzero rfl))
  case h_8 hop =>
    obtain ⟨hzero, hi⟩ := requireZero_eq_ok_iff.1 hd
    split at hi
    · cases hi
      exact op_eq_of_extract (extract_eq_append_field 0 4 (extract_eq_append_field 4 1 (extract_eq_append hop hzero rfl)))
    · cases hi
  case h_9 => cases hd

/-- R62: a command word is read only as the instruction whose word it is. -/
theorem encode_of_decodeCmd {w : BitVec 32} {i : Instr} (hd : decodeCmd w = some i) : encode i = .cmd w := by
  unfold decodeCmd at hd
  split at hd
  case h_1 hcode | h_2 hcode | h_4 hcode | h_5 hcode =>
    obtain ⟨hzero, hi⟩ := Option.ite_none_right_eq_some.1 hd
    cases hi
    exact cmd_eq_of_extract (extract_eq_append hcode hzero rfl)
  case h_3 hcode =>
    cases hd
    exact cmd_eq_of_extract (extract_eq_append_field 0 28 hcode)
  case h_6 hcode =>
    obtain ⟨⟨hzero, hlength⟩, hi⟩ := Option.ite_none_right_eq_some.1 hd
    cases hi
    exact cmd_eq_of_extract
      (extract_eq_append (extract_eq_append_field 8 1 (extract_eq_append hcode hzero rfl)) hlength rfl)
  case h_7 hcode =>
    obtain ⟨hzero, hi⟩ := Option.ite_none_right_eq_some.1 hd
    cases hi
    exact cmd_eq_of_extract (extract_eq_append_field 0 5 (extract_eq_append hcode hzero rfl))
  case h_8 hcode =>
    obtain ⟨hzero, hi⟩ := Option.ite_none_right_eq_some.1 hd
    cases hi
    exact cmd_eq_of_extract (extract_eq_append_field 0 10 (extract_eq_append hcode hzero rfl))
  case h_9 => cases hd

theorem decode_op_eq_ok_iff {w : BitVec 16} {i : Instr} : decode (.op w) = .ok i ↔ decodeOp w = .ok i := by
  cases hw : decodeOp w <;> simp [decode, hw]

theorem decode_cmd_eq_ok_iff {w : BitVec 32} {i : Instr} : decode (.cmd w) = .ok i ↔ decodeCmd w = some i := by
  cases hw : decodeCmd w <;> simp [decode, hw]

/-- Settles O2: the fields that the decoder reads or compares are, put together, the whole word. -/
theorem encodeOfDecodeIsTheWord : Obligations.EncodeOfDecodeIsTheWord := by
  intro w i hd
  refine ⟨decode_wellFormed hd, ?_⟩
  cases w with
  | op w => exact encode_of_decodeOp (decode_op_eq_ok_iff.1 hd)
  | cmd w => exact encode_of_decodeCmd (decode_cmd_eq_ok_iff.1 hd)

/-- Settles O3: twelve closed words. -/
theorem wordsOfTheTablesDecode : Obligations.WordsOfTheTablesDecode := by
  unfold Obligations.WordsOfTheTablesDecode
  decide

/-! ### Refused operation words (R61) -/

theorem decode_op_eq_refused_iff {w : BitVec 16} {c : RefusalCode} :
    decode (.op w) = .error (.refused c) ↔ decodeOp w = .error c := by
  cases hw : decodeOp w <;> simp [decode, hw]

theorem requireZero_refuses_iff {n : Nat} {z : BitVec n} {r : Except RefusalCode Instr} :
    (∃ c, requireZero z r = .error c) ↔ z.toNat ≠ 0 ∨ ∃ c, r = .error c := by
  have hzero : z.toNat = 0 ↔ z = 0 := BitVec.toNat_inj (y := 0)
  unfold requireZero
  split <;> simp_all

/-- An operand's range check refuses the word exactly when the operand is out of range. -/
theorem ite_refuses_iff {p : Prop} [Decidable p] {i : Instr} {c : RefusalCode} :
    (∃ c', (if p then .ok i else .error c : Except RefusalCode Instr) = .error c') ↔ ¬ p := by
  split <;> simp [*]

theorem opField_toNat (w : BitVec 16) (lo n : Nat) : (opField w lo n).toNat = w.toNat / 2 ^ lo % 2 ^ n := by
  rw [opField, BitVec.extractLsb'_toNat, Nat.shiftRight_eq_div_pow]

theorem opcodeOf_eq_iff {w : BitVec 16} {c : BitVec 4} : opcodeOf w = c ↔ w.toNat / 4096 = c.toNat := by
  have hopcode : (opcodeOf w).toNat = w.toNat / 4096 % 16 := opField_toNat w 12 4
  rw [← BitVec.toNat_inj, hopcode]
  omega

/-- A refused word is taken from the schedule and leaves the mark of its code (R61, R111). -/
theorem step_refused_word {s : State} {w : PortWord} {rest : List Input} {c : RefusalCode} (hready : s.ready)
    (hin : s.inputs = .word w :: rest) (hd : decode w = .error (.refused c)) :
    step s = .next { s with inputs := rest, refused := some c } := by
  simp [step_ready hready, fetchInput, hin, fetchWord, hd, raiseRefusal]

/-- Settles O4: opcode by opcode, the must-be-0 bits and the operand's range decide whether the decoder refuses the word; the
step then sets the mark. -/
theorem operationWordRefusedExactlyWhen : Obligations.OperationWordRefusedExactlyWhen := by
  intro w
  refine ⟨?_, fun s rest c hready hin hd => step_refused_word hready hin hd⟩
  simp only [decode_op_eq_refused_iff]
  unfold decodeOp
  split
  case h_1 hop | h_2 hop | h_3 hop | h_6 hop | h_7 hop =>
    simp [requireZero_refuses_iff, opField_toNat, opcodeOf_eq_iff.1 hop]
  case h_4 hop | h_8 hop =>
    simp [requireZero_refuses_iff, ite_refuses_iff, opField_toNat, opcodeOf_eq_iff.1 hop, Nat.succ_le_iff]
  case h_5 hop =>
    simp [opcodeOf_eq_iff.1 hop]
  case h_9 h1 h2 h3 h4 h5 h8 h9 hA =>
    refine ⟨fun _ => .inl ?_, fun _ => ⟨_, rfl⟩⟩
    have hlt := w.isLt
    simp only [opcodeOf_eq_iff, BitVec.reduceToNat, imp_false] at h1 h2 h3 h4 h5 h8 h9 hA
    simp only [List.mem_cons, List.not_mem_nil]
    omega

end Sys2Proof.Machine
end

section
/-! The phase encoder and the pulse (R55 to R57, R63): the shape of a rendered bank (O20) and the duration field (O31). -/

namespace Sys2Proof.Machine

/-! ### Rendered banks (R74) -/

/-- A plane's bit goes to bits 0 to 5 of the column byte. -/
theorem planeBit_masked (b : Bool) (k : Fin 6) : ((BitVec.ofBool b).zeroExtend 8 <<< k.val) &&& 0xC0 = 0 := by
  revert b k; decide

/-- Bits 7 and 6 of the plane bits are clear, whatever the row cache and `PLANE_BIT` (R55). -/
theorem planeBits_masked (cfg : Config) (rc : RowCache) (e : Nat) (c : Fin 64) : planeBits cfg rc e c &&& 0xC0 = 0 := by
  refine List.foldlRecOn (motive := fun byte => byte &&& 0xC0 = 0) _ _ (by decide) fun byte hbyte k _ => ?_
  rw [BitVec.and_or_distrib_right, hbyte, planeBit_masked]
  rfl

/-- At effective bit 10 every plane is dark (R74). -/
theorem planeBits_dark (cfg : Config) (rc : RowCache) (c : Fin 64) : planeBits cfg rc 10 c = 0 := by
  refine List.foldlRecOn (motive := fun byte => byte = 0) _ _ rfl fun byte hbyte k _ => ?_
  simp [hbyte, driveBit]

theorem renderedBank_column (cfg : Config) (rc : RowCache) (e : Nat) (c : Fin 63) :
    (renderedBank cfg rc e)[c.val] = some (planeBits cfg rc e ⟨c.val, by omega⟩) := by
  have hc := c.isLt
  simp [renderedBank, columnByte, show c.val < 64 by omega, show c.val ≠ 63 by omega]

/-- The latch strobe stands on column 63 (R56). -/
theorem renderedBank_lastColumn (cfg : Config) (rc : RowCache) (e : Nat) :
    (renderedBank cfg rc e)[63] = some (planeBits cfg rc e 63 ||| 0x40) := by
  simp [renderedBank, columnByte]

theorem renderedBank_terminal (cfg : Config) (rc : RowCache) (e : Nat) : (renderedBank cfg rc e)[64] = some 0 := by
  simp [renderedBank]

/-- Settles O20: a column byte is the plane bits, which lie below bit 6, and the latch strobe on column 63. -/
theorem renderedBankShape : Obligations.RenderedBankShape := by
  intro s t p b hrender
  rw [renderPhase_eq_ok hrender, bank_storeRender_same]
  refine ⟨fun c => ⟨_, renderedBank_column _ _ _ c, planeBits_masked _ _ _ _⟩,
    ⟨_, renderedBank_lastColumn _ _ _, ?_⟩, renderedBank_terminal _ _ _, fun hdark => ?_⟩
  · rw [BitVec.and_or_distrib_right, planeBits_masked]
    decide
  · rw [show effectiveBit p s.skip = 10 from Nat.min_eq_right hdark]
    exact ⟨fun c => by rw [renderedBank_column, planeBits_dark], by rw [renderedBank_lastColumn, planeBits_dark]; rfl⟩

/-! ### The pulse duration (R63, R82) -/

theorem configRefusal_eq_none_iff {cfg : Config} :
    configRefusal cfg = none ↔ gammaAdmitted cfg = true ∧ baseAdmitted cfg = true := by
  unfold configRefusal
  split_ifs <;> simp [*]

/-- R63: an admitted `BASE` leaves room for a shift by 9. -/
theorem base_lt_of_configRefusal {cfg : Config} (h : configRefusal cfg = none) : cfg.base * 2 ^ 9 < 2 ^ 28 := by
  obtain ⟨-, hbase⟩ := configRefusal_eq_none_iff.1 h
  simp only [baseAdmitted, Nat.shiftLeft_eq, decide_eq_true_eq] at hbase
  exact hbase.2

/-- R82's `prev`, as a number. -/
theorem prevPhase_toNat (ph : Phase) : (prevPhase ph).toNat = if ph.toNat = 0 then 9 else ph.toNat - 1 := by
  revert ph; decide

/-- Settles O31: `prev` is at most 9, and R63 admits a `BASE` only if `BASE << 9` fits the field. -/
theorem pulseFieldHoldsTheDuration : Obligations.PulseFieldHoldsTheDuration := by
  intro cfg ph hcfg hph
  rw [← prevPhase_toNat]
  have hprev : (prevPhase ph).toNat ≤ 9 := by
    rw [prevPhase_toNat]
    split <;> omega
  have hfits : cfg.base * 2 ^ (prevPhase ph).toNat < 2 ^ 28 :=
    calc cfg.base * 2 ^ (prevPhase ph).toNat
      _ ≤ cfg.base * 2 ^ 9 := Nat.mul_le_mul_left _ (Nat.pow_le_pow_right (by decide) hprev)
      _ < 2 ^ 28 := base_lt_of_configRefusal hcfg
  rw [pulseTicks, Nat.shiftLeft_eq, BitVec.toNat_ofNat, Nat.mod_eq_of_lt hfits]

end Sys2Proof.Machine
end

section
/-! The Gamma LUT and the row cache (40_gamma_rowcache.md): the default table (O14), and the test port's read of an entry (O15) and
load of the row cache (O16). -/

namespace Sys2Proof.Machine

/-! ### The default table (R68) -/

theorem default_gamma_entry (i : Fin 256) : Config.default.gamma[i] = gammaDefault i.val := by
  simp [Config.default]

theorem gammaRead_default (i : Sample) : gammaRead Config.default i = BitVec.ofNat 10 (gammaDefault i.toNat) :=
  congrArg (BitVec.ofNat 10) (default_gamma_entry ⟨i.toNat, i.isLt⟩)

theorem gammaDefault_mono {i j : Nat} (h : i ≤ j) : gammaDefault i ≤ gammaDefault j := by
  have hcube : i ^ 3 ≤ j ^ 3 := Nat.pow_le_pow_left h 3
  unfold gammaDefault
  exact Nat.div_le_div_right (by omega)

/-- R67 of R68's table: its last entry is 1023, and it never falls. -/
theorem gammaAdmitted_default : gammaAdmitted Config.default = true := by
  rw [gammaAdmitted_iff]
  simp only [default_gamma_entry]
  refine ⟨fun i => ?_, fun i j hij => gammaDefault_mono hij⟩
  calc gammaDefault i.val
    _ ≤ gammaDefault 255 := gammaDefault_mono (Nat.le_of_lt_succ i.isLt)
    _ < 1024 := by decide

/-- Settles O14: the cube makes the table rise to 1023, so it is admitted; its entries are the formula's values. -/
theorem defaultGammaTable : Obligations.DefaultGammaTable := by
  refine ⟨configRefusal_eq_none_iff.2 ⟨gammaAdmitted_default, by decide⟩, default_gamma_entry, ?_⟩
  simp only [gammaRead_default]
  decide

/-! ### The test port before START (R122) -/

theorem testPort_idle {s : State} (i : Instr) (body : State → Except FaultRecord State) (hidle : s.proto = .idle) :
    testPort i body s = commit s (body s) := by
  rw [testPort, if_pos hidle]

/-- The reply takes no effect on a collaborator, so it is only recorded, in either use (R102). -/
theorem emit_gammaResult (v : Drive) (s : State) : emit (.gammaResult v) s = .ok (record (.gammaResult v) s) := by
  cases hu : s.cfg.use with
  | openUse => rw [emit_open _ hu, openEffect_gammaResult]
  | closedUse => rw [emit_closed _ hu, applyCommand_gammaResult]

/-- Settles O15: before START the gate is open, and the reply is recorded as R62's word. -/
theorem tGammaRepliesWithTheEntry : Obligations.TGammaRepliesWithTheEntry := by
  intro s i hidle
  rw [exec, execTGamma, testPort_idle _ _ hidle, emit_gammaResult, commit_ok, record, encodeCommand_gammaResult]

theorem exec_tLoad_idle {s : State} {r : RowPair} {h : Handle} (hidle : s.proto = .idle) (hh : loadHandle r s = some h) :
    exec (.tLoad r) s = .next (storeLoad r h s) := by
  rw [exec, execTLoad, testPort_idle _ _ hidle, loadRowCache_some hh, commit_ok]

/-- Settles O16: the cache is the loaded one, whose planes 0 to 2 read row `r` and planes 3 to 5 row `r + 32` (R35). -/
theorem tLoadFillsTheRowCache : Obligations.TLoadFillsTheRowCache := by
  intro s r h hidle hh
  rw [← loadHandle_eq] at hh
  have hentry := loadedCache_entry s.cfg s.fb h r
  exact ⟨loadedCache s.cfg s.fb h r, exec_tLoad_idle hidle hh, fun c =>
    ⟨hentry c 0, hentry c 1, hentry c 2, hentry c 3, hentry c 4, hentry c 5⟩⟩

end Sys2Proof.Machine
end

section
/-! The brightness a bank shows (R74 to R77): the bit that each plane has in a rendered bank (O19), and the sum of a plane's
bits over the ten phases (O21). -/

namespace Sys2Proof.Machine

/-! ### The bits of a column byte (R55, R56, R74) -/

/-- Bit `j` of bytes OR-ed together in a loop is set when one of them sets it. -/
theorem getLsbD_foldl_or {α : Type} {w : Nat} (f : α → BitVec w) (l : List α) (x : BitVec w) (j : Nat) :
    (l.foldl (fun byte a => byte ||| f a) x).getLsbD j = (x.getLsbD j || l.any fun a => (f a).getLsbD j) := by
  induction l generalizing x with
  | nil => simp
  | cons a rest ih => rw [List.foldl_cons, ih, BitVec.getLsbD_or, List.any_cons, Bool.or_assoc]

theorem planeBit_getLsbD (b : Bool) (i j : Fin 6) :
    ((BitVec.ofBool b).zeroExtend 8 <<< i.val).getLsbD j.val = (decide (i = j) && b) := by
  revert b i j; decide

/-- No other plane shares plane `k`'s bit (D4), so that bit is plane `k`'s alone. -/
theorem planeBits_getLsbD {cfg : Config} (hapart : PlanesApart cfg) (rc : RowCache) (e : Nat) (c : Fin 64) (k : Fin 6) :
    (planeBits cfg rc e c).getLsbD (cfg.planeBit[k]).val = driveBit (rcValue rc c k) e := by
  have hshared (i : Fin 6) : cfg.planeBit[i] = cfg.planeBit[k] ↔ i = k := ⟨hapart i k, fun h => h ▸ rfl⟩
  simp only [planeBits, getLsbD_foldl_or, planeBit_getLsbD, hshared]
  simp [List.any_eq]

/-- The latch strobe is bit 6 and nothing else (R56). -/
theorem columnByte_getLsbD (cfg : Config) (rc : RowCache) (e : Nat) (c : Fin 64) (j : Nat) :
    (columnByte cfg rc e c).getLsbD j = ((planeBits cfg rc e c).getLsbD j || (decide (c.val = 63) && decide (j = 6))) := by
  have hstrobe : (0x40 : LineByte).getLsbD j = decide (j = 6) := by
    rw [show (0x40 : LineByte) = BitVec.twoPow 8 6 from rfl, BitVec.getLsbD_twoPow]
    simp [eq_comm]
  unfold columnByte
  split
  next hlast => rw [BitVec.getLsbD_or, hstrobe, decide_eq_true hlast, Bool.true_and]
  next hcol => rw [decide_eq_false hcol, Bool.false_and, Bool.or_false]

/-- No plane reaches bits 6 and 7: R55's mask, bit by bit. -/
theorem planeBits_getLsbD_above (cfg : Config) (rc : RowCache) (e : Nat) (c : Fin 64) {j : Nat}
    (hj : (0xC0 : LineByte).getLsbD j = true) : (planeBits cfg rc e c).getLsbD j = false := by
  rw [← Bool.and_true (BitVec.getLsbD _ _), ← hj, ← BitVec.getLsbD_and, planeBits_masked]
  exact BitVec.getLsbD_zero

theorem columnByte_latch (cfg : Config) (rc : RowCache) (e : Nat) (c : Fin 64) :
    (columnByte cfg rc e c).getLsbD 6 = decide (c.val = 63) := by
  rw [columnByte_getLsbD, planeBits_getLsbD_above _ _ _ _ (by decide)]
  simp

theorem columnByte_bit7 (cfg : Config) (rc : RowCache) (e : Nat) (c : Fin 64) :
    (columnByte cfg rc e c).getLsbD 7 = false := by
  rw [columnByte_getLsbD, planeBits_getLsbD_above _ _ _ _ (by decide)]
  simp

theorem renderedBank_getElem (cfg : Config) (rc : RowCache) (e : Nat) (c : Fin 64) :
    (renderedBank cfg rc e)[c.val] = some (columnByte cfg rc e c) := by
  simp [renderedBank]

/-! ### The bit a phase shows (R75) -/

/-- Past bit 9 the effective bit is the dark one, and an entry has no bit there either. -/
theorem driveBit_effectiveBit (v : Drive) (p : Phase) (skip : BitVec 4) :
    driveBit v (effectiveBit p skip) = v.getLsbD (p.toNat + skip.toNat) := by
  by_cases hdark : 10 ≤ p.toNat + skip.toNat
  · rw [effectiveBit, Nat.min_eq_right hdark, driveBit, if_pos rfl, BitVec.getLsbD_of_ge _ _ hdark]
  · rw [effectiveBit, Nat.min_eq_left (by omega), driveBit, if_neg (by omega)]

/-- What a render with phase `p` shows of an entry `v`: its bit `p + skip`. -/
theorem columnByte_shows {cfg : Config} (hapart : PlanesApart cfg) {rc : RowCache} {c : Fin 64} {k : Fin 6} {v : Drive}
    (hv : rc[c][k] = some v) (p : Phase) (skip : BitVec 4) :
    (columnByte cfg rc (effectiveBit p skip) c).getLsbD (cfg.planeBit[k]).val = v.getLsbD (p.toNat + skip.toNat) := by
  have hentry : rcValue rc c k = v := by rw [rcValue, hv, Option.getD_some]
  have hstrobe : (cfg.planeBit[k]).val ≠ 6 := by omega
  rw [columnByte_getLsbD, decide_eq_false hstrobe, Bool.and_false, Bool.or_false, planeBits_getLsbD hapart, hentry,
    driveBit_effectiveBit]

theorem exec_tRender_idle {s : State} (p : Phase) (b : BankIx) (hidle : s.proto = .idle) (hfull : CacheFull s.rc) :
    exec (.tRender p b) s = .next (storeRender p b s) := by
  rw [exec, execTRender, testPort_idle _ _ hidle, renderPhase_full ((firstUnwritten_eq_none_iff s.rc).2 hfull), commit_ok]

/-- Settles O19: the bank is the rendered one; a plane's bit of a column byte is its entry's bit `p + skip`, which a 10-bit
entry has only below 10. -/
theorem tRenderWritesTheBank : Obligations.TRenderWritesTheBank := by
  intro s p b _ hidle hfull
  refine ⟨_, exec_tRender_idle p b hidle hfull, renderedBank_terminal _ _ _, fun c => ⟨_, renderedBank_getElem _ _ _ c,
    columnByte_latch _ _ _ c, columnByte_bit7 _ _ _ c, fun hapart k v hv => ?_⟩⟩
  rw [columnByte_shows hapart hv]
  split
  next hdark => exact BitVec.getLsbD_of_ge _ _ hdark
  next => rfl

/-! ### The sum over the phases (R76, R77) -/

/-- Bits weighted by the power of two of their place make the number with these bits. -/
theorem sum_shifted_bits {n : Nat} (f : Fin n → Bool) :
    ((List.finRange n).map fun p => (f p).toNat <<< p.val).sum = Nat.ofBits f := by
  induction n with
  | zero => rfl
  | succ n ih =>
    have hdouble (p : Fin n) : (f p.succ).toNat <<< p.succ.val = 2 * (f p.succ).toNat <<< p.val := by
      rw [Fin.val_succ, Nat.shiftLeft_succ]
    calc ((List.finRange (n + 1)).map fun p => (f p).toNat <<< p.val).sum
      _ = (f 0).toNat + ((List.finRange n).map fun p => (f p.succ).toNat <<< p.succ.val).sum := by
        rw [List.finRange_succ, List.map_cons, List.map_map, List.sum_cons]
        rfl
      _ = (f 0).toNat + 2 * Nat.ofBits (f ∘ Fin.succ) := by
        simp only [hdouble, List.sum_map_mul_left, ← ih, Function.comp_apply]
      _ = Nat.ofBits f := by rw [Nat.ofBits_succ, Nat.add_comm]

/-- The bits of an entry from `k` on make the entry shifted right by `k`. -/
theorem ofBits_drive_from (v : Drive) (k : Nat) : Nat.ofBits (fun p : Fin 10 => v.getLsbD (p.val + k)) = v.toNat >>> k := by
  have hbits (p : Fin 10) : v.getLsbD (p.val + k) = (v.toNat >>> k).testBit p.val := by
    rw [Nat.testBit_shiftRight, Nat.add_comm k]
    rfl
  have hlt : v.toNat >>> k < 2 ^ 10 := Nat.lt_of_le_of_lt (Nat.shiftRight_le _ _) v.isLt
  simp only [hbits]
  rw [Nat.ofBits_testBit, Nat.mod_eq_of_lt hlt]

/-- Settles O21: phase `p` shows bit `p + skip` with the weight of bit `p`, so the ten phases show the entry without its
lowest `skip` bits. -/
theorem phasesReconstructTheEntry : Obligations.PhasesReconstructTheEntry := by
  intro s b c k v byteOf hapart _ hv hrender
  have hshown (p : Fin 10) : (byteOf p).getLsbD (s.cfg.planeBit[k]).val = v.getLsbD (p.val + s.skip.toNat) := by
    obtain ⟨t, ht, hbyte⟩ := hrender p
    rw [renderPhase_eq_ok ht, bank_storeRender_same, renderedBank_getElem, Option.some.injEq] at hbyte
    rw [← hbyte, columnByte_shows hapart hv, BitVec.toNat_ofNat, Nat.mod_eq_of_lt (by omega)]
  simp only [hshown]
  rw [sum_shifted_bits, ofBits_drive_from]

end Sys2Proof.Machine
end

section
/-! The scheduler's three operations as whole states (42_scheduler.md): TRANSFER_COMPLETE (O26, O27), PULSE_COMPLETE (O28, O29)
and START (O23, O24) in open and in closed use, and START followed by TRANSFER_COMPLETE (O32). For each operation one state says
what its commands leave, and the rest of the operation, which is the same in both uses, is run from there. -/

namespace Sys2Proof.Machine

/-! ### TRANSFER_COMPLETE (R81) -/

/-- After TRANSFER_COMPLETE's three commands in open use, with the pulse's duration `d`. -/
def pulseOrdered (d : Ticks) (s : State) : State :=
  { s with cmds := s.cmds ++ [0x10000000, 0x30000000#32 ||| d.zeroExtend 32, 0x40000000] }

/-- After them in closed use, where no pulse was in progress (R96, R100, R101). -/
def pulseStarted (d : Ticks) (s : State) : State :=
  { pulseOrdered d s with
    tcPend := false, pulse := some d, oeN := 0, clkRun := false, displays := s.displays ++ [⟨s.rowaddr, s.latched, d⟩] }

/-- TRANSFER_COMPLETE in open use: its commands are recorded, then the reload is made if it is pending. -/
theorem exec_transferComplete_open {s : State} (hawait : s.proto = .awaitTC) (hopen : s.cfg.use = .openUse) :
    exec .transferComplete s = commit s
      (reloadIfPending (pulseOrdered (pulseTicks s.cfg.base (prevPhase s.ph)) s) >>= fun u => .ok (setProto .awaitPC u)) := by
  rw [exec, execTransferComplete, if_pos hawait, transferDone]
  simp [emit_open, hopen, record, pulseOrdered, encodeCommand_ackTransfer, encodeCommand_armPulse, encodeCommand_stopClock]

/-- TRANSFER_COMPLETE in closed use, where the pulse generator is free to take the pulse. -/
theorem exec_transferComplete_closed {s : State} (hawait : s.proto = .awaitTC) (hclosed : s.cfg.use = .closedUse)
    (hpulse : s.pulse = none) :
    exec .transferComplete s = commit s
      (reloadIfPending (pulseStarted (pulseTicks s.cfg.base (prevPhase s.ph)) s) >>= fun u => .ok (setProto .awaitPC u)) := by
  rw [exec, execTransferComplete, if_pos hawait, transferDone]
  simp [emit_closed, armPulse_free, hclosed, hpulse, record, clearTransferDone, recordDisplay, beginPulse, setClock, pulseOrdered,
    pulseStarted, encodeCommand_ackTransfer, encodeCommand_armPulse, encodeCommand_stopClock]

theorem prevPhase_of_eq_zero {ph : Phase} (h : ph = 0) : prevPhase ph = 9 := if_pos h

/-- The reload where its mark, `ph = 0`, is set: it leaves the mark (R83). -/
theorem reloadIfPending_zero {s : State} {h : Handle} (hp : s.ph = 0) (hh : loadHandle (s.rp + 1) s = some h) :
    reloadIfPending s = .ok { s with
      rp := s.rp + 1
      fbframe := latchedFrame (s.rp + 1) s
      rc := loadedCache s.cfg s.fb h (s.rp + 1)
      lb0 := if s.ab = 0 then renderedBank s.cfg (loadedCache s.cfg s.fb h (s.rp + 1)) (effectiveBit 0 s.skip) else s.lb0
      lb1 := if s.ab = 0 then s.lb1 else renderedBank s.cfg (loadedCache s.cfg s.fb h (s.rp + 1)) (effectiveBit 0 s.skip)
      nLoad := s.nLoad + 1
      nRender := s.nRender + 1 } := by
  rw [reloadIfPending_pending hp rfl rfl rfl rfl hh]
  obtain ⟨cfg, rp, ph⟩ := s
  obtain rfl : ph = 0 := hp
  rfl

/-- Settles O26: the commands are recorded with `prev` as R82 gives it, and the reload is made exactly at its mark. -/
theorem transferCompleteOpen : Obligations.TransferCompleteOpen := by
  intro s hawait hopen
  rw [exec_transferComplete_open hawait hopen]
  refine ⟨fun hp => ?_, fun h hp hh => ?_⟩
  · rw [prevPhase_of_ne hp, reloadIfPending_of_ne (s := pulseOrdered _ s) hp]
    rfl
  · rw [prevPhase_of_eq_zero hp, reloadIfPending_zero (s := pulseOrdered _ s) hp hh]
    rfl

/-- Settles O27: as O26, from the state in which the commands have started the pulse and stopped the clock. -/
theorem transferCompleteClosed : Obligations.TransferCompleteClosed := by
  intro s hawait hclosed hpulse
  rw [exec_transferComplete_closed hawait hclosed hpulse]
  refine ⟨fun hp => ?_, fun h hp hh => ?_⟩
  · rw [prevPhase_of_ne hp, reloadIfPending_of_ne (s := pulseStarted _ s) hp]
    rfl
  · rw [prevPhase_of_eq_zero hp, reloadIfPending_zero (s := pulseStarted _ s) hp hh]
    rfl

/-! ### PULSE_COMPLETE (R84) -/

/-- After PULSE_COMPLETE's four commands in open use. -/
def transferOrdered (s : State) : State :=
  { s with
    rowaddr := s.rp
    cmds := s.cmds ++ [0x20000000, 0x70000000#32 ||| s.rp.zeroExtend 32, 0x60000041#32 ||| (s.ab.zeroExtend 32 <<< 8),
      0x50000000] }

/-- After them in closed use, where no transfer was in progress (R97, R98, R99, R101). -/
def transferStarted (s : State) : State :=
  { transferOrdered s with pcPend := false, xfer := some ⟨s.ab, bankBytes (s.bank s.ab), 0⟩, clkRun := true }

@[simp] theorem bank_record (c : Command) (s : State) (b : BankIx) : (record c s).bank b = s.bank b := rfl

@[simp] theorem bank_setRowaddr (r : RowPair) (s : State) (b : BankIx) : (setRowaddr r s).bank b = s.bank b := rfl

@[simp] theorem bank_clearPulseDone (s : State) (b : BankIx) : (clearPulseDone s).bank b = s.bank b := rfl

/-- PULSE_COMPLETE in open use: its commands are recorded, the banks flip, and the phase advances. -/
theorem exec_pulseComplete_open {s : State} (hawait : s.proto = .awaitPC) (hopen : s.cfg.use = .openUse) :
    exec .pulseComplete s = commit s
      (advancePhase (setActive (otherBank (transferOrdered s).ab) (transferOrdered s)) >>=
        fun u => .ok (setProto .awaitTC u)) := by
  rw [exec, execPulseComplete, if_pos hawait, pulseDone]
  simp [emit_open, hopen, record, setRowaddr, transferOrdered, encodeCommand_ackPulse, encodeCommand_setRow,
    encodeCommand_startTransfer, encodeCommand_startClock]

/-- PULSE_COMPLETE in closed use, where the transfer engine is free and the old bank holds all its bytes. -/
theorem exec_pulseComplete_closed {s : State} (hawait : s.proto = .awaitPC) (hclosed : s.cfg.use = .closedUse)
    (hxfer : s.xfer = none) (hfull : BankFull (s.bank s.ab)) :
    exec .pulseComplete s = commit s
      (advancePhase (setActive (otherBank (transferStarted s).ab) (transferStarted s)) >>=
        fun u => .ok (setProto .awaitTC u)) := by
  have hbytes := (firstMissingByte_eq_none_iff (s.bank s.ab)).2 hfull
  have hstarted : transferStarted s = setClock true (record .startClock (setTransfer (some ⟨s.ab, bankBytes (s.bank s.ab), 0⟩)
      (record (.startTransfer s.ab) (setRowaddr s.rp (record (.setRow s.rp) (clearPulseDone (record .ackPulse s))))))) := by
    simp [record, setRowaddr, clearPulseDone, setTransfer, setClock, transferOrdered, transferStarted, encodeCommand_ackPulse,
      encodeCommand_setRow, encodeCommand_startTransfer, encodeCommand_startClock]
  rw [exec, execPulseComplete, if_pos hawait, pulseDone, hstarted]
  simp [emit_closed, startTransfer_free, hclosed, hxfer, hbytes]

theorem otherBank_eq_zero_iff {b : BankIx} : otherBank b = 0 ↔ b = 1 := by revert b; decide

/-- The render of the next phase, into the bank that is not being sent (R46, R84). -/
theorem advancePhase_flipped {s : State} (hp : s.ph.toNat < 9) (hfull : CacheFull s.rc) :
    advancePhase (setActive (otherBank s.ab) s) = .ok { s with
      ab := 1 - s.ab
      ph := s.ph + 1
      lb0 := if s.ab = 1 then renderedBank s.cfg s.rc (effectiveBit (s.ph + 1) s.skip) else s.lb0
      lb1 := if s.ab = 1 then s.lb1 else renderedBank s.cfg s.rc (effectiveBit (s.ph + 1) s.skip)
      nRender := s.nRender + 1 } := by
  rw [advancePhase_render (s := setActive (otherBank s.ab) s) hp ((firstUnwritten_eq_none_iff s.rc).2 hfull)]
  simp only [storeRender, State.setBank, setActive_ab, otherBank_eq_zero_iff]
  rfl

/-- Settles O28: the commands are recorded, the banks flip, and the phase advances by a render or, from phase 9, without one. -/
theorem pulseCompleteOpen : Obligations.PulseCompleteOpen := by
  intro s hawait hopen
  rw [exec_pulseComplete_open hawait hopen]
  refine ⟨fun hp hfull => ?_, fun hp => ?_⟩
  · rw [advancePhase_flipped (s := transferOrdered s) hp hfull]
    rfl
  · rw [advancePhase_last (s := setActive _ (transferOrdered s)) hp]
    rfl

/-- Settles O29: as O28, from the state in which the commands have started the transfer of the old bank. -/
theorem pulseCompleteClosed : Obligations.PulseCompleteClosed := by
  intro s hawait hclosed hxfer hbank
  rw [exec_pulseComplete_closed hawait hclosed hxfer hbank]
  refine ⟨fun hp hfull => ?_, fun hp => ?_⟩
  · rw [advancePhase_flipped (s := transferStarted s) hp hfull]
    rfl
  · rw [advancePhase_last (s := setActive _ (transferStarted s)) hp]
    rfl

/-! ### START (R80) -/

/-- A load of row pair 0 reads `fbref`, in the latching variant too (R71). -/
theorem loadHandle_zero (s : State) : loadHandle 0 s = s.fbref := by
  rw [loadHandle_eq, if_pos rfl, ite_self]

/-- After START's load of row pair 0 from `h` and its render of phase 0, when its commands go out. -/
def phaseZeroRendered (h : Handle) (s : State) : State :=
  { s with
    rp := 0, ph := 0, ab := 0
    fbframe := if s.cfg.fbLatchAtFrame = true then some h else s.fbframe
    rc := loadedCache s.cfg s.fb h 0
    lb0 := renderedBank s.cfg (loadedCache s.cfg s.fb h 0) (effectiveBit 0 s.skip)
    nLoad := s.nLoad + 1
    nRender := s.nRender + 1 }

theorem storeRender_storeLoad_zero {s : State} {h : Handle} (href : s.fbref = some h) :
    storeRender 0 0 (storeLoad 0 h (setActive 0 (setPhase 0 (setRowPair 0 s)))) = phaseZeroRendered h s := by
  have hframe : latchedFrame 0 (setActive 0 (setPhase 0 (setRowPair 0 s))) =
      if s.cfg.fbLatchAtFrame = true then some h else s.fbframe := by simp [latchedFrame, href]
  rw [storeLoad, hframe]
  rfl

@[simp] theorem phaseZeroRendered_cfg (h : Handle) (s : State) : (phaseZeroRendered h s).cfg = s.cfg := rfl

@[simp] theorem phaseZeroRendered_xfer (h : Handle) (s : State) : (phaseZeroRendered h s).xfer = s.xfer := rfl

@[simp] theorem firstUnwritten_phaseZeroRendered (h : Handle) (s : State) : firstUnwritten (phaseZeroRendered h s).rc = none :=
  firstUnwritten_loadedCache s.cfg s.fb h 0

@[simp] theorem firstMissingByte_phaseZeroRendered (h : Handle) (s : State) :
    firstMissingByte ((phaseZeroRendered h s).bank 0#1) = none :=
  firstMissingByte_renderedBank s.cfg (loadedCache s.cfg s.fb h 0) (effectiveBit 0 s.skip)

/-- START up to its commands (R80). -/
theorem primePipeline_emits {s : State} {h : Handle} (href : s.fbref = some h) :
    primePipeline s = (do
      let u ← emit (.startTransfer 0) (phaseZeroRendered h s)
      let u ← emit .startClock u
      let u ← renderPhase 1 1 (setActive 1 u)
      .ok (setProto .awaitTC u)) := by
  have hload : loadHandle 0 (setActive 0 (setPhase 0 (setRowPair 0 s))) = some h := (loadHandle_zero _).trans href
  rw [primePipeline, loadRowCache_some hload, ok_bind_op, renderPhase_full (by simp), storeRender_storeLoad_zero href, ok_bind_op]

/-- After START's two commands in open use. -/
def firstTransferOrdered (h : Handle) (s : State) : State :=
  { phaseZeroRendered h s with cmds := s.cmds ++ [0x60000041, 0x50000000] }

/-- After them in closed use, where no transfer was in progress (R99, R101). -/
def firstTransferStarted (h : Handle) (s : State) : State :=
  { firstTransferOrdered h s with xfer := some ⟨0, bankBytes ((phaseZeroRendered h s).bank 0), 0⟩, clkRun := true }

/-- START in open use: its commands are recorded between the renders of phase 0 and phase 1. -/
theorem exec_start_open {s : State} {h : Handle} (hidle : s.proto = .idle) (hopen : s.cfg.use = .openUse)
    (href : s.fbref = some h) :
    exec .start s = .next (setProto .awaitTC (storeRender 1 1 (setActive 1 (firstTransferOrdered h s)))) := by
  have hordered : firstTransferOrdered h s = record .startClock (record (.startTransfer 0) (phaseZeroRendered h s)) := by
    simp [record, phaseZeroRendered, firstTransferOrdered, encodeCommand_startTransfer, encodeCommand_startClock]
  rw [exec, execStart, if_pos hidle, primePipeline_emits href, hordered]
  simp [emit_open, hopen, renderPhase_full]

/-- START in closed use, where the transfer engine is free to take bank 0. -/
theorem exec_start_closed {s : State} {h : Handle} (hidle : s.proto = .idle) (hclosed : s.cfg.use = .closedUse)
    (hxfer : s.xfer = none) (href : s.fbref = some h) :
    exec .start s = .next (setProto .awaitTC (storeRender 1 1 (setActive 1 (firstTransferStarted h s)))) := by
  have hstarted : firstTransferStarted h s =
      setClock true (record .startClock (setTransfer (some ⟨0, bankBytes ((phaseZeroRendered h s).bank 0), 0⟩)
        (record (.startTransfer 0) (phaseZeroRendered h s)))) := by
    simp [record, setTransfer, setClock, phaseZeroRendered, firstTransferOrdered, firstTransferStarted,
      encodeCommand_startTransfer, encodeCommand_startClock]
  rw [exec, execStart, if_pos hidle, primePipeline_emits href, hstarted]
  simp [emit_closed, startTransfer_free, renderPhase_full, hclosed, hxfer]

/-- Settles O23: the state with phase 0 rendered and the two commands recorded, then the render of phase 1. -/
theorem startPrimesThePipelineOpen : Obligations.StartPrimesThePipelineOpen :=
  fun _ _ hidle hopen href => exec_start_open hidle hopen href

/-- Settles O24: as O23, from the state in which the transfer of the rendered bank 0 and the clock have been started. -/
theorem startPrimesThePipelineClosed : Obligations.StartPrimesThePipelineClosed :=
  fun _ _ hidle hclosed hxfer href => exec_start_closed hidle hclosed hxfer href

/-! ### START and the first TRANSFER_COMPLETE (R89) -/

/-- Settles O32, from O23 and O26: START leaves the reload mark, and the reload, from a framebuffer that START has latched where
the variant asks for it, renders into bank 1. -/
theorem firstPulseAfterStartIsTheLongest : Obligations.FirstPulseAfterStartIsTheLongest := by
  intro s h hidle hopen href
  have hstart := startPrimesThePipelineOpen s h hidle hopen href
  refine ⟨_, _, hstart, (transferCompleteOpen _ ?await ?isOpen).2 h ?mark ?load, rfl, ?cmds, rfl, rfl, rfl, ?lb0, ?lb1⟩
  case await => rfl
  case isOpen => exact hopen
  case mark => rfl
  case load =>
    rw [loadHandle_eq]
    cases s.cfg.fbLatchAtFrame <;> simp [href]
  case cmds | lb0 | lb1 => simp

end Sys2Proof.Machine
end

section
/-! Runs of the machine, and the events of a frame in open use (O33). -/

namespace Sys2Proof.Machine

/-- A run whose first step is known. -/
theorem run_succ {s t : State} (n : Nat) (h : step s = .next t) :
    Host.Core.run Sys2Proof.core (n + 1) s = Host.Core.run Sys2Proof.core n t := by
  have hcore : Sys2Proof.core.step s = .next t := h
  simp only [Host.Core.run, hcore]

/-- A run of `m` steps that does not stop, and then `n` steps. -/
theorem run_add {m : Nat} {s t : State} (h : Host.Core.run Sys2Proof.core m s = .next t) (n : Nat) :
    Host.Core.run Sys2Proof.core (m + n) s = Host.Core.run Sys2Proof.core n t := by
  induction m generalizing s with
  | zero =>
    cases h
    rw [Nat.zero_add]
  | succ m ih =>
    rw [Nat.add_right_comm]
    cases hstep : step s with
    | next u =>
      rw [run_succ m hstep] at h
      rw [run_succ (m + n) hstep, ih h]
    | fault r =>
      have hcore : Sys2Proof.core.step s = .fault r := hstep
      simp [Host.Core.run, hcore] at h
    | refused r =>
      have hcore : Sys2Proof.core.step s = .refused r := hstep
      simp [Host.Core.run, hcore] at h

/-! ### A frame in open use (R85, R88) -/

theorem loadHandle_ne_none {s : State} (href : s.fbref ≠ none) (hframe : s.cfg.fbLatchAtFrame = true → s.fbframe ≠ none)
    (r : RowPair) : loadHandle r s ≠ none := by
  rw [loadHandle_eq]
  split_ifs with hlatch
  · exact href
  · exact hframe hlatch
  · exact href

/-- A latched framebuffer stays latched, if `fbref` is installed (R71). -/
theorem latchedFrame_ne_none {s : State} (href : s.fbref ≠ none) (hframe : s.fbframe ≠ none) (r : RowPair) :
    latchedFrame r s ≠ none := by
  unfold latchedFrame
  split_ifs
  · exact href
  · exact hframe

theorem cacheFull_loadedCache (cfg : Config) (m : Memory) (h : Handle) (r : RowPair) : CacheFull (loadedCache cfg m h r) :=
  (firstUnwritten_eq_none_iff _).1 (firstUnwritten_loadedCache cfg m h r)

/-- `t` is reached in open use from the control state that START leaves, `s`, by `tcs` transfer events and `pcs` pulse events
that take turns: a reload for every tenth transfer event from the first on, a render with each reload and with each pulse event
but every tenth (R81, R84, R88). -/
structure FrameCount (s : State) (tcs pcs : Nat) (t : State) : Prop where
  ready : t.ready
  openUse : t.cfg.use = .openUse
  fbref : t.fbref ≠ none
  fbframe : t.cfg.fbLatchAtFrame = true → t.fbframe ≠ none
  full : 0 < tcs → CacheFull t.rc
  proto : t.proto = if tcs = pcs then .awaitTC else .awaitPC
  rp : t.rp.toNat = (tcs + 9) / 10 % 32
  ph : t.ph.toNat = pcs % 10
  ab : t.ab.toNat = (pcs + 1) % 2
  rowaddr : 0 < pcs → tcs = pcs → t.rowaddr = t.rp
  nLoad : t.nLoad = s.nLoad + (tcs + 9) / 10
  nRender : t.nRender = s.nRender + (tcs + 9) / 10 + (pcs - pcs / 10)
  cmds : t.cmds.length = s.cmds.length + 3 * tcs + 4 * pcs

variable {s t : State} {k : Nat} {rest : List Input}

/-- The next word of a frame where it awaits a transfer event: every tenth reloads (R81). -/
theorem FrameCount.transferComplete (ht : FrameCount s k k t) (hin : t.inputs = .word (.op 0x2000) :: rest) :
    ∃ u, step t = .next u ∧ FrameCount s (k + 1) k u ∧ u.inputs = rest := by
  obtain ⟨hready, hopen, href, hframe, hfull, hproto, hrp, hph, hab, -, hloads, hrenders, hcmds⟩ := ht
  rw [if_pos rfl] at hproto
  rw [stepRunsTheDecodedInstruction t _ rest .transferComplete hready hin (by decide)]
  obtain ⟨hdwell, hreload⟩ := transferCompleteOpen { t with inputs := rest } hproto hopen
  have hawait : Proto.awaitPC = if k + 1 = k then .awaitTC else .awaitPC := (if_neg k.succ_ne_self).symm
  have hthree (ws : List (BitVec 32)) (hws : ws.length = 3) :
      (t.cmds ++ ws).length = s.cmds.length + 3 * (k + 1) + 4 * k := by
    rw [List.length_append]
    omega
  by_cases hp : t.ph = 0
  · have htens : k % 10 = 0 := by rw [← hph, hp]; rfl
    have hnext : (t.rp + 1).toNat = (k + 1 + 9) / 10 % 32 := by bv_omega
    have hload : t.nLoad + 1 = s.nLoad + (k + 1 + 9) / 10 := by omega
    have hrender : t.nRender + 1 = s.nRender + (k + 1 + 9) / 10 + (k - k / 10) := by omega
    obtain ⟨h, hh⟩ := Option.ne_none_iff_exists'.1 (loadHandle_ne_none href hframe (t.rp + 1))
    exact ⟨_, hreload h hp hh, ⟨hready, hopen, href, fun hlatch => latchedFrame_ne_none href (hframe hlatch) (t.rp + 1),
      fun _ => cacheFull_loadedCache _ _ _ _, hawait, hnext, hph, hab, by omega, hload, hrender, hthree _ rfl⟩, rfl⟩
  · have htens : k % 10 ≠ 0 := by rw [← hph]; exact fun hz => hp (BitVec.eq_of_toNat_eq hz)
    have hsame : (k + 1 + 9) / 10 = (k + 9) / 10 := by omega
    rw [← hsame] at hrp hloads hrenders
    exact ⟨_, hdwell hp, ⟨hready, hopen, href, hframe, fun _ => hfull (by omega), hawait, hrp, hph, hab, by omega,
      hloads, hrenders, hthree _ rfl⟩, rfl⟩

/-- The next word of a frame where it awaits a pulse event: every tenth ends the row pair (R84). -/
theorem FrameCount.pulseComplete (ht : FrameCount s (k + 1) k t) (hin : t.inputs = .word (.op 0x3000) :: rest) :
    ∃ u, step t = .next u ∧ FrameCount s (k + 1) (k + 1) u ∧ u.inputs = rest := by
  obtain ⟨hready, hopen, href, hframe, hfull, hproto, hrp, hph, hab, -, hloads, hrenders, hcmds⟩ := ht
  rw [if_neg k.succ_ne_self] at hproto
  rw [stepRunsTheDecodedInstruction t _ rest .pulseComplete hready hin (by decide)]
  obtain ⟨hrender, hlast⟩ := pulseCompleteOpen { t with inputs := rest } hproto hopen
  have hother : (1 - t.ab).toNat = (k + 1 + 1) % 2 := by bv_omega
  have hfour (ws : List (BitVec 32)) (hws : ws.length = 4) :
      (t.cmds ++ ws).length = s.cmds.length + 3 * (k + 1) + 4 * (k + 1) := by
    rw [List.length_append]
    omega
  by_cases hp : t.ph.toNat < 9
  · have hnext : (t.ph + 1).toNat = (k + 1) % 10 := by bv_omega
    have hcount : t.nRender + 1 = s.nRender + (k + 1 + 9) / 10 + (k + 1 - (k + 1) / 10) := by omega
    exact ⟨_, hrender hp (hfull k.succ_pos), ⟨hready, hopen, href, hframe, hfull, (if_pos rfl).symm, hrp, hnext, hother,
      fun _ _ => rfl, hloads, hcount, hfour _ rfl⟩, rfl⟩
  · have hzero : 0 = (k + 1) % 10 := by omega
    have hcount : t.nRender = s.nRender + (k + 1 + 9) / 10 + (k + 1 - (k + 1) / 10) := by omega
    exact ⟨_, hlast (Nat.le_of_not_lt hp), ⟨hready, hopen, href, hframe, hfull, (if_pos rfl).symm, hrp, hzero, hother,
      fun _ _ => rfl, hloads, hcount, hfour _ rfl⟩, rfl⟩

/-- The words of `CYCLE n` (R66), one transfer and one pulse event each. -/
theorem FrameCount.run_cycles (n : Nat) (ht : FrameCount s k k t) (hin : t.inputs = (cycleWords n).map Input.word ++ rest) :
    ∃ u, Host.Core.run Sys2Proof.core (2 * n) t = .next u ∧ FrameCount s (k + n) (k + n) u ∧ u.inputs = rest := by
  induction n generalizing k t with
  | zero => exact ⟨t, rfl, ht, hin⟩
  | succ n ih =>
    obtain ⟨u, hu, hcount, hin⟩ := ht.transferComplete hin
    obtain ⟨v, hv, hcount, hin⟩ := hcount.pulseComplete hin
    obtain ⟨w, hw, hcount, hin⟩ := ih hcount hin
    refine ⟨w, ?_, ?_, hin⟩
    · rw [Nat.mul_succ, run_succ _ hu, run_succ _ hv, hw]
    · rwa [Nat.add_right_comm k 1 n, Nat.add_assoc] at hcount

/-- Settles O33: the counts after 320 cycles, in which `rp`, `ph` and `ab` have wrapped round. -/
theorem frameReturnsToTheStartState : Obligations.FrameReturnsToTheStartState := by
  intro s rest hready hopen hawait hrp hph hab href hframe hin
  have hstart : FrameCount s 0 0 s := ⟨hready, hopen, href, hframe, nofun, hawait, by rw [hrp]; rfl, by rw [hph]; rfl,
    by rw [hab]; rfl, nofun, rfl, rfl, rfl⟩
  obtain ⟨t, hrun, ht, hrest⟩ := hstart.run_cycles 320 hin
  obtain ⟨hready, hopen, href, hframe, hfull, hproto, hrp, hph, hab, hrow, hloads, hrenders, hcmds⟩ := ht
  have hrp' : t.rp = 0 := BitVec.eq_of_toNat_eq hrp
  exact ⟨t, hrun, hproto, hrp', BitVec.eq_of_toNat_eq hph, BitVec.eq_of_toNat_eq hab,
    (hrow (by decide) rfl).trans hrp', hloads, hrenders, hcmds, hready.1, hready.2.1, hrest⟩

end Sys2Proof.Machine
end

section
/-! Closed use with nothing scheduled: a transfer runs to its end, and what the panel then shows (O46). -/

namespace Sys2Proof.Machine

/-- With nothing scheduled the first enabled agent moves (log entry 5). -/
theorem step_nextAgent {s : State} {a : Agent} (hready : s.ready) (hin : s.inputs = []) (ha : nextAgent s = some a) :
    step s = runFetch (agentStep a s) := by
  rw [step_ready hready, fetchInput, hin, fetchIdle, ha]

/-- The column bytes that a transfer of `data` latches (R103). -/
def columnsOf (data : Vector LineByte 65) : Vector LineByte 64 := Vector.ofFn fun c : Fin 64 => data[c.val]

theorem latchOn_eq (b : BankIx) (data : Vector LineByte 65) (sent : Nat) (byte : LineByte)
    (old : Option (Vector LineByte 64)) :
    latchOn ⟨b, data, sent⟩ byte old = if byte.getLsbD 6 = true then some (columnsOf data) else old := by
  have htake : data.take 64 = columnsOf data := by
    ext i hi
    simp [columnsOf]
  rw [latchOn, htake]

/-- Closed use with nothing scheduled and no completion pending, in a transfer: `sent` bytes of `data` have been moved and the clock
runs. Once the last column byte is out, the columns are latched. -/
structure Sending (b : BankIx) (data : Vector LineByte 65) (sent : Nat) (s : State) : Prop where
  ready : s.ready
  closedUse : s.cfg.use = .closedUse
  inputs : s.inputs = []
  xfer : s.xfer = some ⟨b, data, sent⟩
  clkRun : s.clkRun = true
  tcPend : s.tcPend = false
  pcPend : s.pcPend = false
  latched : sent = 64 → s.latched = some (columnsOf data)

variable {b : BankIx} {data : Vector LineByte 65} {sent : Nat} {s : State}

theorem Sending.step_eq (hs : Sending b data sent s) (hsent : sent < 65) : step s = .next (byteStep s) := by
  obtain ⟨hready, hclosed, hin, hxfer, hclk, htc, hpc, -⟩ := hs
  have ha : nextAgent s = some .transferByte := by
    simp [nextAgent, enabled, transferHasByte, hclosed, hxfer, hclk, htc, hpc, hsent]
  exact step_nextAgent hready hin ha

/-- The machine after a byte that is not the last one (R103). -/
def byteMoved (b : BankIx) (data : Vector LineByte 65) (sent : Fin 64) (s : State) : State :=
  { s with
    dataLines := data[sent.val]
    latched := if data[sent.val].getLsbD 6 = true then some (columnsOf data) else s.latched
    xfer := some ⟨b, data, sent.val + 1⟩ }

theorem byteStep_eq_byteMoved {sent : Fin 64} (hxfer : s.xfer = some ⟨b, data, sent.val⟩) :
    byteStep s = byteMoved b data sent s := by
  have hlt : sent.val < 65 := by omega
  have hmore : sent.val + 1 ≠ 65 := by omega
  simp [byteStep, hxfer, hlt, advanceTransfer, hmore, latchOn_eq, byteMoved]

theorem Sending.byteMoved {sent : Fin 64} (hs : Sending b data sent.val s) (hlatch : latchOnLastColumn data) :
    Sending b data (sent.val + 1) (byteMoved b data sent s) := by
  obtain ⟨hready, hclosed, hin, hxfer, hclk, htc, hpc, -⟩ := hs
  refine ⟨hready, hclosed, hin, rfl, hclk, htc, hpc, fun hlast => if_pos ?_⟩
  have hcolumn : data[sent.val].getLsbD 6 = decide (sent.val = 63) := hlatch ⟨sent.val, by omega⟩
  exact hcolumn.trans (decide_eq_true (by omega))

/-- The machine after the terminal byte. -/
def transferEnded (data : Vector LineByte 65) (s : State) : State :=
  { s with xfer := none, tcPend := true, dataLines := data[64], latched := some (columnsOf data) }

/-- The columns are latched before the terminal byte, so it makes no difference to them. -/
theorem Sending.lastByte (hs : Sending b data 64 s) : byteStep s = transferEnded data s := by
  simp [byteStep, hs.xfer, hs.latched rfl, advanceTransfer, latchOn_eq, transferEnded, raiseTransferDone]

/-- R95: a transfer with `n` of its column bytes left ends after them and the terminal byte. -/
theorem Sending.run_eq (hlatch : latchOnLastColumn data) {n : Nat} (hn : sent + n = 64) (hs : Sending b data sent s) :
    Host.Core.run Sys2Proof.core (n + 1) s = .next (transferEnded data s) := by
  induction n generalizing sent s with
  | zero =>
    obtain rfl : sent = 64 := hn
    rw [run_succ 0 (hs.step_eq (by decide)), hs.lastByte]
    rfl
  | succ n ih =>
    obtain ⟨j, rfl⟩ : ∃ j : Fin 64, sent = j.val := ⟨⟨sent, by omega⟩, rfl⟩
    rw [run_succ _ (hs.step_eq (by omega)), byteStep_eq_byteMoved hs.xfer, ih (by omega) (hs.byteMoved hlatch)]
    rfl

/-! ### The display of a transfer that has ended -/

/-- What TRANSFER_COMPLETE displays: the latched data at the row address, for `BASE << prev` ticks (R82, R100). -/
def displayNext (s : State) : Display := ⟨s.rowaddr, s.latched, pulseTicks s.cfg.base (prevPhase s.ph)⟩

/-- From `s` to `t` the panel has come to show `d`: `d` is recorded and its pulse is in progress. -/
structure Shows (d : Display) (s t : State) : Prop where
  fault : t.fault = s.fault
  proto : t.proto = .awaitPC
  displays : t.displays = s.displays ++ [d]
  pulse : t.pulse = some d.ticks
  oeN : t.oeN = 0

/-- TRANSFER_COMPLETE in closed use shows the same on both branches. -/
theorem exec_transferComplete_shows (hawait : s.proto = .awaitTC) (hclosed : s.cfg.use = .closedUse) (hpulse : s.pulse = none)
    (hload : loadHandle (s.rp + 1) s ≠ none) : ∃ t, exec .transferComplete s = .next t ∧ Shows (displayNext s) s t := by
  obtain ⟨hdwell, hreload⟩ := transferCompleteClosed s hawait hclosed hpulse
  unfold displayNext
  by_cases hp : s.ph = 0
  · obtain ⟨h, hh⟩ := Option.ne_none_iff_exists'.1 hload
    rw [prevPhase_of_eq_zero hp]
    exact ⟨_, hreload h hp hh, ⟨rfl, rfl, rfl, rfl, rfl⟩⟩
  · rw [prevPhase_of_ne hp]
    exact ⟨_, hdwell hp, ⟨rfl, rfl, rfl, rfl, rfl⟩⟩

/-- A transfer has just started, and the TRANSFER_COMPLETE at its end can arm its pulse and find its framebuffer. -/
structure SendsForDisplay (b : BankIx) (data : Vector LineByte 65) (s : State) : Prop extends Sending b data 0 s where
  proto : s.proto = .awaitTC
  pulse : s.pulse = none
  load : loadHandle (s.rp + 1) s ≠ none

/-- Such a transfer ends in the display of its columns, 65 bytes and a TRANSFER_COMPLETE later. -/
theorem SendsForDisplay.run_shows (hs : SendsForDisplay b data s) (hlatch : latchOnLastColumn data) :
    ∃ t, Host.Core.run Sys2Proof.core 66 s = .next t ∧ Shows (displayNext (transferEnded data s)) s t := by
  have hbytes := hs.toSending.run_eq hlatch (n := 64) rfl
  have hnext : nextAgent (transferEnded data s) = some .transferEvent := by
    simp [nextAgent, enabled, transferEnded, hs.closedUse]
  have hevent : step (transferEnded data s) = exec .transferComplete (transferEnded data s) :=
    step_nextAgent (s := transferEnded data s) hs.ready hs.inputs hnext
  obtain ⟨t, ht, hshows⟩ := exec_transferComplete_shows (s := transferEnded data s) hs.proto hs.closedUse hs.pulse hs.load
  refine ⟨t, ?_, ⟨hshows.fault, hshows.proto, hshows.displays, hshows.pulse, hshows.oeN⟩⟩
  rw [run_add hbytes 1, run_succ 0 (hevent.trans ht)]
  rfl

theorem prevPhase_succ {ph : Phase} (hp : ph.toNat < 9) : prevPhase (ph + 1) = ph := by
  revert ph
  decide

theorem bankBytes_eq {bank : Bank} (hbank : ∀ j : Fin 65, bank[j] = some data[j]) : bankBytes bank = data := by
  ext1 j hj
  have hbyte : bank[j] = some data[j] := hbank ⟨j, hj⟩
  rw [bankBytes, Vector.getElem_map, hbyte, Option.getD_some]

/-- The phase whose duration TRANSFER_COMPLETE will arm is the one that PULSE_COMPLETE starts to send (R82, R84). -/
theorem exec_pulseComplete_sends (hready : s.ready) (hclosed : s.cfg.use = .closedUse) (hin : s.inputs = [])
    (hawait : s.proto = .awaitPC) (hxfer : s.xfer = none) (htc : s.tcPend = false) (hpulse : s.pulse = none)
    (hph : s.ph.toNat < 10) (hfull : CacheFull s.rc) (hbank : ∀ j : Fin 65, (s.bank s.ab)[j] = some data[j])
    (hload : loadHandle (s.rp + 1) s ≠ none) :
    ∃ t, exec .pulseComplete s = .next t ∧ SendsForDisplay s.ab data t ∧ t.fault = none ∧ t.displays = s.displays ∧
      displayNext (transferEnded data t) = ⟨s.rp, some (columnsOf data), pulseTicks s.cfg.base s.ph⟩ := by
  obtain ⟨hrender, hlast⟩ := pulseCompleteClosed s hawait hclosed hxfer fun j => by simp [hbank j]
  rw [bankBytes_eq hbank] at hrender hlast
  by_cases hp : s.ph.toNat < 9
  · refine ⟨_, hrender hp hfull, ⟨⟨hready, hclosed, hin, rfl, rfl, htc, rfl, nofun⟩, rfl, hpulse, hload⟩, hready.1,
      rfl, ?_⟩
    rw [displayNext, transferEnded, prevPhase_succ hp]
  · have hnine : s.ph = 9 := by bv_omega
    refine ⟨_, hlast (by omega), ⟨⟨hready, hclosed, hin, rfl, rfl, htc, rfl, nofun⟩, rfl, hpulse, hload⟩, hready.1, rfl,
      ?_⟩
    rw [displayNext, transferEnded, prevPhase_zero, hnine]

/-- Settles O46: PULSE_COMPLETE starts the transfer of the bank rendered ahead, and the transfer ends in its display. -/
theorem panelShowsTheRenderedPhase : Obligations.PanelShowsTheRenderedPhase := by
  intro s data hready hclosed hin hawait hxfer htc hpulse hpc hph hfull hbank hlatch hload
  have hnext : nextAgent s = some .pulseEvent := by simp [nextAgent, enabled, hclosed, htc, hpc]
  have hevent : step s = exec .pulseComplete s := step_nextAgent hready hin hnext
  obtain ⟨t, ht, hsending, hfault, hdisplays, hshown⟩ :=
    exec_pulseComplete_sends hready hclosed hin hawait hxfer htc hpulse hph hfull hbank hload
  obtain ⟨u, hu, hshows⟩ := hsending.run_shows hlatch
  rw [hshown] at hshows
  refine ⟨u, (run_succ 66 (hevent.trans ht)).trans hu, hshows.fault.trans hfault, hshows.proto, ?_, hshows.pulse, hshows.oeN⟩
  rw [hshows.displays, hdisplays, columnsOf]

end Sys2Proof.Machine
end

section
/-! The host's writes (43_host_writes.md): each writes its own register and nothing else (O34, O35), and an installed framebuffer
stays installed (O12). -/

namespace Sys2Proof.Machine

/-- Settles O34: the write has no protocol check and no other effect, so it is its instruction's arm as it stands. -/
theorem skipWriteChangesOnlySkip : Obligations.SkipWriteChangesOnlySkip := by
  intro s n _
  rw [exec, execSetBrightnessSkip]

/-- Settles O35: as O34, for `fbref`. -/
theorem framebufferWriteChangesOnlyFbref : Obligations.FramebufferWriteChangesOnlyFbref := by
  intro s h
  rw [exec, execSetFramebuffer]

/-- SET_FRAMEBUFFER is the only instruction that moves `fbref`, and its operand is a handle, never NONE (R93). -/
theorem CoreMove.fbref_ne_none {s c : State} {i : Instr} (hmove : CoreMove s i c) (href : s.fbref ≠ none) :
    c.fbref ≠ none := by
  cases hmove with
  | framebuffer hd => exact Option.some_ne_none hd
  | stay | row | skip | load | render | start | dwell | reload | nextPhase | lastPhase => exact href

theorem exec_fbref_ne_none {i : Instr} {s t : State} (href : s.fbref ≠ none) (h : exec i s = .next t) :
    t.fbref ≠ none := by
  obtain ⟨c, e, hmove, rfl⟩ := exec_coreMove h
  exact hmove.fbref_ne_none href

theorem byteStep_fbref (s : State) : (byteStep s).fbref = s.fbref := by
  obtain ⟨e, hbyte⟩ := byteStep_within s
  rw [hbyte, within_fbref]

/-- Settles O12, by the ways of a step: an instruction keeps a handle installed, and the environment does not move `fbref`. -/
theorem installedFramebufferStaysInstalled : Obligations.InstalledFramebufferStaysInstalled := by
  intro s t hstep href
  obtain ⟨-, -, hmove⟩ := step_moves hstep
  cases hmove with
  | word w ins i hin hd he => exact exec_fbref_ne_none (s := { s with inputs := ins }) href he
  | event ins a i ha hen he => exact exec_fbref_ne_none (s := { s with inputs := ins }) href he
  | byte ins hen ht => rwa [ht, byteStep_fbref]
  | pulse ins hen ht | refusal ins c ht | host ins h y x ch v hin hni ht | wait ins ht => rw [ht]; exact href

end Sys2Proof.Machine
end

section
/-! Commands and collaborators (44_interfaces.md): each command's effect (O38 to O40), the agents' steps (O41 to O43), and a
transfer from its start to its end (O45). -/

namespace Sys2Proof.Machine

/-! ### The commands by themselves (R96 to R102) -/

/-- Settles O38: a command is recorded and then applied, and none of the six can fault; with the words of R62, each
side is the other written out. -/
theorem commandsThatAlwaysTakeEffect : Obligations.CommandsThatAlwaysTakeEffect := by
  intro s r v
  rw [← encodeCommand_setRow, ← encodeCommand_gammaResult]
  exact ⟨rfl, rfl, rfl, rfl, rfl, rfl⟩

/-- The command is recorded first, so its effect starts from the recorded list (log entry 4). -/
theorem exec_armPulse (d : Ticks) (s : State) : exec (.armPulse d) s = commit s (armPulse d (record (.armPulse d) s)) := rfl

/-- Settles O39, by whether a pulse is in progress: recording the command does not touch the pulse, and a fault
drops the recording. -/
theorem armPulseStartsThePulse : Obligations.ArmPulseStartsThePulse := by
  intro s d
  rw [exec_armPulse, ← encodeCommand_armPulse]
  refine ⟨fun hfree => ?_, fun hbusy => ?_⟩
  · rw [armPulse_free (s := record _ s) hfree]
    rfl
  · obtain ⟨e, he⟩ := Option.ne_none_iff_exists'.1 hbusy
    rw [armPulse_busy (s := record _ s) he]
    rfl

theorem exec_startTransfer (b : BankIx) (s : State) :
    exec (.startTransfer b) s = commit s (startTransfer b (record (.startTransfer b) s)) := rfl

/-- The byte of no value that R28's check meets first. -/
theorem firstMissingByte_eq_some {bank : Bank} {j : Fin 65} (hj : bank[j] = none)
    (hbefore : ∀ i : Fin 65, i < j → bank[i] ≠ none) :
    firstMissingByte bank = some j := by
  refine List.find?_eq_some_iff_getElem.2 ⟨by simp [hj], j.val, by simp, by simp, fun i hi => ?_⟩
  simpa [Option.ne_none_iff_isSome] using hbefore ⟨i, by omega⟩ hi

theorem startTransfer_missing {b : BankIx} {s : State} {j : Fin 65} (hfree : s.xfer = none)
    (hj : firstMissingByte (s.bank b) = some j) : startTransfer b s = .error (.unwrittenByte b j) := by
  simp [startTransfer, hfree, hj]

/-- Settles O40, by the checks of R99 in their order: the transfer in progress, then the first byte with no value. -/
theorem startTransferTakesTheSnapshot : Obligations.StartTransferTakesTheSnapshot := by
  intro s b data
  rw [exec_startTransfer, ← encodeCommand_startTransfer]
  refine ⟨fun hfree hbank => ?_, fun hbusy => ?_, fun j hfree hj hbefore => ?_⟩
  · have hfull : firstMissingByte (s.bank b) = none := (firstMissingByte_eq_none_iff _).2 fun j => by simp [hbank j]
    rw [startTransfer_free (s := record _ s) hfree hfull, bank_record, bankBytes_eq hbank]
    rfl
  · obtain ⟨t, ht⟩ := Option.ne_none_iff_exists'.1 hbusy
    rw [startTransfer_busy (s := record _ s) ht]
    rfl
  · rw [startTransfer_missing (s := record _ s) hfree (firstMissingByte_eq_some hj hbefore)]
    rfl

/-! ### The agents' steps (R103 to R105) -/

/-- The schedule's agent is taken, whether or not it is enabled. -/
theorem fetchInput_agent {s : State} {rest : List Input} {a : Agent} (hin : s.inputs = .agent a :: rest) :
    fetchInput s = fetchAgent a { s with inputs := rest } := by
  simp [fetchInput, hin]

/-- An enabled agent's entry is its step (R103 to R105). -/
theorem step_agent {s : State} {rest : List Input} {a : Agent} (hready : s.ready) (hin : s.inputs = .agent a :: rest)
    (hen : enabled s a = true) : step s = runFetch (agentStep a { s with inputs := rest }) := by
  rw [step_ready hready, fetchInput_agent hin, fetchAgent, enabled_inputs, if_pos hen]

/-- The byte step in full (R103): byte 64 is the last. -/
theorem byteStep_eq {s : State} {b : BankIx} {data : Vector LineByte 65} {sent : Fin 65}
    (hxfer : s.xfer = some ⟨b, data, sent.val⟩) :
    byteStep s = { s with
      dataLines := data[sent]
      latched := if data[sent].getLsbD 6 = true then some (columnsOf data) else s.latched
      xfer := if sent.val = 64 then none else some ⟨b, data, sent.val + 1⟩
      tcPend := if sent.val = 64 then true else s.tcPend } := by
  by_cases hlast : sent.val = 64 <;>
    simp [byteStep, hxfer, latchOn_eq, advanceTransfer, raiseTransferDone, hlast]

/-- Settles O41: a transfer has a byte left as long as it is in progress, so with the clock running its step is enabled. -/
theorem byteStepMovesTheNextByte : Obligations.ByteStepMovesTheNextByte := by
  intro s rest b data sent hready hclosed hin hxfer hclk
  have hen : enabled s .transferByte = true := by simp [enabled, transferHasByte, hclosed, hxfer, hclk]
  rw [step_agent hready hin hen, agentStep, runFetch_answer, byteStep_eq (s := { s with inputs := rest }) hxfer]
  rfl

/-- Settles O42: a pulse in progress is all that enables its end. -/
theorem pulseEndRaisesItsCompletion : Obligations.PulseEndRaisesItsCompletion := by
  intro s rest d hready hclosed hin hpulse
  have hen : enabled s .pulseEnd = true := by simp [enabled, hclosed, hpulse]
  rw [step_agent hready hin hen]
  rfl

/-- Settles O43: a pending completion is all that enables its event. -/
theorem pendingEventIsDelivered : Obligations.PendingEventIsDelivered := by
  intro s rest hready hclosed
  refine ⟨fun hin htc => ?_, fun hin hpc => ?_⟩
  · exact step_agent hready hin (by simp [enabled, hclosed, htc])
  · exact step_agent hready hin (by simp [enabled, hclosed, hpc])

/-- Settles O45: the run of a transfer that has all its bytes left. -/
theorem transferEndsAfter65Bytes : Obligations.TransferEndsAfter65Bytes := by
  intro s b data hready hclosed hin hxfer hclk htc hpc hlatch
  have hsending : Sending b data 0 s := ⟨hready, hclosed, hin, hxfer, hclk, htc, hpc, nofun⟩
  exact hsending.run_eq hlatch (n := 64) rfl

end Sys2Proof.Machine
end

section
/-! The order of closed use (R107): one agent at a time is due and enabled (O53), and where the events come from the collaborators
every step brings the next turn (O52). -/

namespace Sys2Proof.Machine

/-! ### The agent that is due -/

/-- The collaborator step or event that comes next after START, and what R107 says of the collaborators then: their turns are
bytes, the transfer's event, the pulse's end and the pulse's event. -/
inductive Due (s : State) : Agent → Prop
  | transferByte (t : Transfer) (hproto : s.proto = .awaitTC) (hpulse : s.pulse = none) (hpc : s.pcPend = false)
      (hxfer : s.xfer = some t) (hsent : t.sent < 65) (htc : s.tcPend = false) (hclk : s.clkRun = true)
      (hother : s.sendsOtherBank t) : Due s .transferByte
  | transferEvent (hproto : s.proto = .awaitTC) (hpulse : s.pulse = none) (hpc : s.pcPend = false)
      (hxfer : s.xfer = none) (htc : s.tcPend = true) : Due s .transferEvent
  | pulseEnd (hproto : s.proto = .awaitPC) (hxfer : s.xfer = none) (htc : s.tcPend = false)
      (hpulse : s.pulse ≠ none) (hpc : s.pcPend = false) : Due s .pulseEnd
  | pulseEvent (hproto : s.proto = .awaitPC) (hxfer : s.xfer = none) (htc : s.tcPend = false)
      (hpulse : s.pulse = none) (hpc : s.pcPend = true) : Due s .pulseEvent

theorem collaboratorsFollow_idle_iff {s : State} (hidle : s.proto = .idle) :
    s.collaboratorsFollow ↔ s.xfer = none ∧ s.tcPend = false ∧ s.pulse = none ∧ s.pcPend = false := by
  simp only [State.collaboratorsFollow, hidle]

/-- After START, R107 says that one of the four is due. -/
theorem collaboratorsFollow_iff_due {s : State} (hstarted : s.proto ≠ .idle) : s.collaboratorsFollow ↔ ∃ a, Due s a := by
  unfold State.collaboratorsFollow
  constructor
  · intro hfollow
    split at hfollow
    next hidle => exact absurd hidle hstarted
    next hproto =>
      obtain ⟨hpulse, hpc, ⟨hxfer, htc⟩ | ⟨t, hxfer, hsent, htc, hclk, hother⟩⟩ := hfollow
      · exact ⟨_, .transferEvent hproto hpulse hpc hxfer htc⟩
      · exact ⟨_, .transferByte t hproto hpulse hpc hxfer hsent htc hclk hother⟩
    next hproto =>
      obtain ⟨hxfer, htc, ⟨hpulse, hpc⟩ | ⟨hpulse, hpc⟩⟩ := hfollow
      · exact ⟨_, .pulseEvent hproto hxfer htc hpulse hpc⟩
      · exact ⟨_, .pulseEnd hproto hxfer htc hpulse hpc⟩
  · rintro ⟨a, hdue⟩
    cases hdue with
    | transferByte t hproto hpulse hpc hxfer hsent htc hclk hother =>
      rw [hproto]; exact ⟨hpulse, hpc, .inr ⟨t, hxfer, hsent, htc, hclk, hother⟩⟩
    | transferEvent hproto hpulse hpc hxfer htc => rw [hproto]; exact ⟨hpulse, hpc, .inl ⟨hxfer, htc⟩⟩
    | pulseEnd hproto hxfer htc hpulse hpc => rw [hproto]; exact ⟨hxfer, htc, .inr ⟨hpulse, hpc⟩⟩
    | pulseEvent hproto hxfer htc hpulse hpc => rw [hproto]; exact ⟨hxfer, htc, .inl ⟨hpulse, hpc⟩⟩

variable {s t : State} {a : Agent}

theorem Due.started (hdue : Due s a) : s.proto ≠ .idle := by
  cases hdue with
  | transferByte t hproto | transferEvent hproto | pulseEnd hproto | pulseEvent hproto => simp [hproto]

theorem Due.collaboratorsFollow (hdue : Due s a) : s.collaboratorsFollow :=
  (collaboratorsFollow_iff_due hdue.started).2 ⟨a, hdue⟩

/-- The agent that is due is enabled, and no other. -/
theorem Due.enabled_iff (hdue : Due s a) (hclosed : s.cfg.use = .closedUse) (b : Agent) : enabled s b = true ↔ b = a := by
  cases hdue with
  | transferByte t hproto hpulse hpc hxfer hsent htc hclk hother =>
    cases b <;> simp [enabled, transferHasByte, hclosed, hpulse, hpc, hxfer, hsent, htc, hclk]
  | transferEvent hproto hpulse hpc hxfer htc =>
    cases b <;> simp [enabled, transferHasByte, hclosed, hpulse, hpc, hxfer, htc]
  | pulseEnd hproto hxfer htc hpulse hpc =>
    cases b <;> simp [enabled, transferHasByte, hclosed, Option.isSome_iff_ne_none, hpulse, hpc, hxfer, htc]
  | pulseEvent hproto hxfer htc hpulse hpc =>
    cases b <;> simp [enabled, transferHasByte, hclosed, hpulse, hpc, hxfer, htc]

/-- Settles O53: after START R107 is that some agent is due, and the due agent is the one that is enabled. -/
theorem exactlyOneAgentIsEnabled : Obligations.ExactlyOneAgentIsEnabled := by
  rintro s ⟨hclosed, hfollow, -, -⟩ hstarted
  obtain ⟨a, hdue⟩ := (collaboratorsFollow_iff_due hstarted).1 hfollow
  exact ⟨a, (hdue.enabled_iff hclosed a).2 rfl, fun b hb => (hdue.enabled_iff hclosed b).1 hb⟩

/-- In order, only what is due is enabled: before START nothing is. -/
theorem due_of_enabled (hclosed : s.cfg.use = .closedUse) (hfollow : s.collaboratorsFollow) (hen : enabled s a = true) :
    Due s a := by
  by_cases hidle : s.proto = .idle
  · obtain ⟨hxfer, htc, hpulse, hpc⟩ := (collaboratorsFollow_idle_iff hidle).1 hfollow
    cases a <;> simp [enabled, transferHasByte, hxfer, htc, hpulse, hpc] at hen
  · obtain ⟨b, hdue⟩ := (collaboratorsFollow_iff_due hidle).1 hfollow
    rwa [(hdue.enabled_iff hclosed a).1 hen]

/-! ### What every instruction keeps (R28) -/

variable {c : State} {i : Instr} {f : FaultRecord}

theorem primed_iff : s.primed ↔ (s.proto ≠ .idle → CacheFull s.rc ∧ (∀ b, BankFull (s.bank b)) ∧ s.fbref ≠ none ∧
    (s.cfg.fbLatchAtFrame = true → s.fbframe ≠ none)) := by
  have hbanks : (∀ b, BankFull (s.bank b)) ↔ BankFull s.lb0 ∧ BankFull s.lb1 :=
    ⟨fun h => ⟨h 0, h 1⟩, fun ⟨h0, h1⟩ b => by rcases bankIx_cases b with rfl | rfl; exacts [h0, h1]⟩
  rw [hbanks, and_assoc]
  rfl

theorem bankFull_renderedBank (cfg : Config) (rc : RowCache) (e : Nat) : BankFull (renderedBank cfg rc e) :=
  (firstMissingByte_eq_none_iff _).1 (firstMissingByte_renderedBank cfg rc e)

/-- A render leaves both banks full if the other one was. -/
theorem bankFull_storeRender (p : Phase) {b : BankIx} (hother : ∀ b', b' ≠ b → BankFull (s.bank b')) (b' : BankIx) :
    BankFull ((storeRender p b s).bank b') := by
  by_cases hb : b' = b
  · rw [hb, bank_storeRender_same]
    exact bankFull_renderedBank _ _ _
  · rw [bank_storeRender_other hb]
    exact hother b' hb

/-- START's two renders fill one bank each (R80). -/
theorem bankFull_primedFrom (hd : Handle) (s : State) (b : BankIx) : BankFull ((primedFrom hd s).bank b) := by
  rw [primedFrom, bank_setProto]
  refine bankFull_storeRender 1 (fun b' hb' => ?_) b
  obtain rfl : b' = 0 := (bankIx_cases b').resolve_right hb'
  exact bankFull_renderedBank s.cfg (loadedCache s.cfg s.fb hd 0) (effectiveBit 0 s.skip)

/-- START loads the row cache and renders both banks; from then on a load needs only what is installed, and a render has the row
cache. -/
theorem CoreMove.primed (hmove : CoreMove s i c) (hs : s.primed) : c.primed := by
  rw [primed_iff] at hs ⊢
  intro hstarted
  cases hmove with
  | stay | row | skip => exact hs hstarted
  | framebuffer hd =>
    obtain ⟨hrc, hbanks, -, hframe⟩ := hs hstarted
    exact ⟨hrc, hbanks, Option.some_ne_none hd, hframe⟩
  | load r hd hidle | render p b hidle => exact absurd hidle hstarted
  | start hd hidle hhd =>
    have href : s.fbref ≠ none := by rw [← loadHandle_zero, hhd]; exact Option.some_ne_none hd
    have hframe (hlatch : s.cfg.fbLatchAtFrame = true) : (primedFrom hd s).fbframe = s.fbref := if_pos ⟨hlatch, rfl⟩
    exact ⟨cacheFull_loadedCache _ _ _ _, bankFull_primedFrom hd s, href, fun hlatch => hframe hlatch ▸ href⟩
  | dwell hawait hp | lastPhase hawait hp => exact hs (by simp [hawait])
  | reload hd hawait hp hhd =>
    obtain ⟨-, hbanks, href, hframe⟩ := hs (by simp [hawait])
    exact ⟨cacheFull_loadedCache _ _ _ _, bankFull_storeRender 0 fun b _ => hbanks b, href,
      fun hlatch => latchedFrame_ne_none href (hframe hlatch) (s.rp + 1)⟩
  | nextPhase hawait hp =>
    obtain ⟨hrc, hbanks, href, hframe⟩ := hs (by simp [hawait])
    exact ⟨hrc, bankFull_storeRender (s.ph + 1) fun b _ => hbanks b, href, hframe⟩

theorem exec_primed (hs : s.primed) (he : exec i s = .next t) : t.primed := by
  obtain ⟨c, e, hmove, rfl⟩ := exec_coreMove he
  exact hmove.primed hs

/-! ### Whose turn is next (R103 to R105, R107) -/

/-- The bytes of a full bank are the bank. -/
theorem map_some_bankBytes {bank : Bank} (hfull : BankFull bank) : (bankBytes bank).map some = bank := by
  ext1 j hj
  obtain ⟨x, hx⟩ := Option.ne_none_iff_exists'.1 (hfull ⟨j, hj⟩)
  have hx : bank[j] = some x := hx
  simp [bankBytes, hx]

/-- A transfer that has just started from a full bank: the snapshot is the bank, as long as the bank stays as it is (R46). -/
theorem Due.ofSnapshot {b : BankIx} {bank : Bank} (hproto : s.proto = .awaitTC) (hpulse : s.pulse = none) (hpc : s.pcPend = false)
    (htc : s.tcPend = false) (hclk : s.clkRun = true) (hxfer : s.xfer = some ⟨b, bankBytes bank, 0⟩) (hb : b = otherBank s.ab)
    (hbank : s.bank b = bank) (hfull : BankFull bank) : Due s .transferByte :=
  .transferByte _ hproto hpulse hpc hxfer (Nat.succ_pos 64) htc hclk ⟨hb, hbank.trans (map_some_bankBytes hfull).symm⟩

/-- START, where no collaborator is busy and none has completed: the bytes of bank 0 are next. -/
theorem exec_start_due {h : Handle} (hclosed : s.cfg.use = .closedUse) (hidle : s.proto = .idle) (hfollow : s.collaboratorsFollow)
    (href : s.fbref = some h) : ∃ u, exec .start s = .next u ∧ Due u .transferByte ∧ u.fault = s.fault := by
  obtain ⟨hxfer, htc, hpulse, hpc⟩ := (collaboratorsFollow_idle_iff hidle).1 hfollow
  have hbank : (storeRender 1 1 (setActive 1 (firstTransferStarted h s))).bank 0 = (phaseZeroRendered h s).bank 0 :=
    bank_storeRender_other (by decide)
  have hfull : BankFull ((phaseZeroRendered h s).bank 0) :=
    (firstMissingByte_eq_none_iff _).1 (firstMissingByte_phaseZeroRendered h s)
  have hother : (0 : BankIx) = otherBank 1 := rfl
  exact ⟨_, exec_start_closed hidle hclosed hxfer href, .ofSnapshot rfl hpulse hpc htc rfl rfl hother hbank hfull, rfl⟩

/-- TRANSFER_COMPLETE at its turn: the pulse's end is next (R81). -/
theorem exec_transferComplete_due (hclosed : s.cfg.use = .closedUse) (hprimed : s.primed) (hdue : Due s .transferEvent) :
    ∃ u, exec .transferComplete s = .next u ∧ Due u .pulseEnd ∧ u.fault = s.fault := by
  obtain ⟨-, -, -, href, hframe⟩ := hprimed hdue.started
  obtain - | ⟨hawait, hpulse, hpc, hxfer, htc⟩ := hdue
  obtain ⟨hdwell, hreload⟩ := transferCompleteClosed s hawait hclosed hpulse
  by_cases hp : s.ph = 0
  · obtain ⟨h, hh⟩ := Option.ne_none_iff_exists'.1 (loadHandle_ne_none href hframe (s.rp + 1))
    exact ⟨_, hreload h hp hh, .pulseEnd rfl hxfer rfl nofun hpc, rfl⟩
  · exact ⟨_, hdwell hp, .pulseEnd rfl hxfer rfl nofun hpc, rfl⟩

/-- PULSE_COMPLETE at its turn: the bytes of the bank rendered ahead are next (R84). -/
theorem exec_pulseComplete_due (hclosed : s.cfg.use = .closedUse) (hprimed : s.primed) (hdue : Due s .pulseEvent) :
    ∃ u, exec .pulseComplete s = .next u ∧ Due u .transferByte ∧ u.fault = s.fault := by
  obtain ⟨hfull, hbanks, -, -⟩ := primed_iff.1 hprimed hdue.started
  obtain - | - | - | ⟨hawait, hxfer, htc, hpulse, hpc⟩ := hdue
  have hexec := exec_pulseComplete_closed hawait hclosed hxfer (hbanks s.ab)
  have hold : s.ab = otherBank (otherBank s.ab) := (otherBank_otherBank s.ab).symm
  by_cases hp : s.ph.toNat < 9
  · rw [advancePhase_render (s := setActive _ (transferStarted s)) hp ((firstUnwritten_eq_none_iff s.rc).2 hfull)] at hexec
    refine ⟨_, hexec, .ofSnapshot rfl hpulse rfl htc rfl rfl hold ?_ (hbanks s.ab), rfl⟩
    exact bank_storeRender_other (otherBank_ne s.ab).symm
  · rw [advancePhase_last (s := setActive _ (transferStarted s)) (Nat.le_of_not_lt hp)] at hexec
    exact ⟨_, hexec, .ofSnapshot rfl hpulse rfl htc rfl rfl hold rfl (hbanks s.ab), rfl⟩

/-- A byte at its turn: another byte is next, or after the last one the transfer's event (R103). -/
theorem Due.byteStep (hdue : Due s .transferByte) : ∃ b, Due (byteStep s) b ∧ (byteStep s).fault = s.fault := by
  obtain ⟨⟨b, data, sent⟩, hawait, hpulse, hpc, hxfer, hsent, htc, hclk, hother⟩ := hdue
  rw [byteStep_eq (sent := ⟨sent, hsent⟩) hxfer]
  by_cases hlast : sent = 64
  · exact ⟨_, .transferEvent hawait hpulse hpc (if_pos hlast) (if_pos hlast), rfl⟩
  · have hmore : sent + 1 < 65 := Nat.lt_of_le_of_ne hsent fun h => hlast (Nat.succ.inj h)
    exact ⟨_, .transferByte _ hawait hpulse hpc (if_neg hlast) hmore ((if_neg hlast).trans htc) hclk hother, rfl⟩

/-- The pulse's end at its turn: its event is next (R104). -/
theorem Due.pulseEndStep (hdue : Due s .pulseEnd) : Due (pulseEndStep s) .pulseEvent := by
  obtain - | - | ⟨hawait, hxfer, htc, hpulse, hpc⟩ := hdue
  exact .pulseEvent hawait hxfer htc rfl rfl

/-! ### Instructions and steps -/

/-- `closedInOrder` without the use and without `primed`: the collaborators are in order, and no fault says otherwise. -/
def InOrder (s : State) : Prop := s.collaboratorsFollow ∧ s.noOrderFault

theorem Due.inOrder (hdue : Due t a) (hfault : t.fault = s.fault) (hs : s.noOrderFault) : InOrder t :=
  ⟨hdue.collaboratorsFollow, fun f hf => hs f (hfault ▸ hf)⟩

theorem InOrder.raiseFault (hs : InOrder s) (hf : f.code ≠ 2 ∧ f.code ≠ 6) : InOrder (raiseFault f s) := by
  refine ⟨hs.1, ?_⟩
  rintro _ ⟨⟩
  exact hf

/-- The operation leaves the order as it is if it succeeds, and otherwise its fault is not one of the order. -/
def KeepsOrder : Except FaultRecord State → Prop
  | .ok u => InOrder u
  | .error f => f.code ≠ 2 ∧ f.code ≠ 6

theorem InOrder.commit {r : Except FaultRecord State} (hs : InOrder s) (hr : KeepsOrder r) (he : commit s r = .next t) :
    InOrder t := by
  obtain rfl | ⟨f, rfl, rfl⟩ := commit_cases he
  · exact hr
  · exact hs.raiseFault hr

/-- Before START the test port runs, and afterwards it faults with a code of its own (R109). -/
theorem InOrder.testPort {body : State → Except FaultRecord State} (hs : InOrder s)
    (hbody : s.proto = .idle → KeepsOrder (body s)) (he : testPort i body s = .next t) : InOrder t := by
  refine hs.commit ?_ he
  split
  · next hidle => exact hbody hidle
  · simp [KeepsOrder, FaultRecord.code]

theorem loadRowCache_keepsOrder (r : RowPair) (hs : InOrder s) : KeepsOrder (loadRowCache r s) := by
  obtain ⟨-, hload⟩ | ⟨h, -, hload⟩ := loadRowCache_cases r s <;> rw [hload]
  · simp [KeepsOrder, FaultRecord.code]
  · exact hs

/-- Before START no bank is being sent, so a render may write any. -/
theorem renderPhase_keepsOrder (p : Phase) (b : BankIx) (hidle : s.proto = .idle) (hs : InOrder s) :
    KeepsOrder (renderPhase p b s) := by
  obtain ⟨c, k, -, hrender⟩ | ⟨-, hrender⟩ := renderPhase_cases p b s <;> rw [hrender]
  · simp [KeepsOrder, FaultRecord.code]
  · have hfree := (collaboratorsFollow_idle_iff hidle).1 hs.1
    exact ⟨(collaboratorsFollow_idle_iff (s := storeRender p b s) hidle).2 hfree, hs.2⟩

/-- START's faults are DOUBLE_START and NO_FRAMEBUFFER (R109). -/
theorem exec_start_inOrder (hclosed : s.cfg.use = .closedUse) (hs : InOrder s) (he : exec .start s = .next t) : InOrder t := by
  by_cases hidle : s.proto = .idle
  · cases href : s.fbref with
    | none =>
      have hload : loadHandle 0 (setActive 0 (setPhase 0 (setRowPair 0 s))) = none := (loadHandle_zero _).trans href
      rw [exec, execStart, if_pos hidle, primePipeline, loadRowCache_none hload, error_bind_op] at he
      exact hs.commit (by simp [KeepsOrder, FaultRecord.code]) he
    | some h =>
      obtain ⟨u, hu, hdue, hfault⟩ := exec_start_due hclosed hidle hs.1 href
      cases he.symm.trans hu
      exact hdue.inOrder hfault hs.2
  · rw [exec, execStart, if_neg hidle] at he
    exact hs.commit (by simp [KeepsOrder, FaultRecord.code]) he

/-- An instruction that is neither an event nor a command keeps the order: of these, START alone touches a collaborator. -/
theorem exec_inOrder (hclosed : s.cfg.use = .closedUse) (hs : InOrder s) (htc : i ≠ .transferComplete)
    (hpc : i ≠ .pulseComplete) (hcmd : commandOf i = none) (he : exec i s = .next t) : InOrder t := by
  cases i with
  | start => exact exec_start_inOrder hclosed hs he
  | transferComplete => exact absurd rfl htc
  | pulseComplete => exact absurd rfl hpc
  | setBrightnessSkip n | setFramebuffer h => cases he; exact hs
  | tGamma x =>
    refine hs.testPort (fun _ => ?_) he
    rw [emit_gammaResult]
    exact hs
  | tLoad r => exact hs.testPort (fun _ => loadRowCache_keepsOrder r hs) he
  | tRender p b => exact hs.testPort (fun hidle => renderPhase_keepsOrder p b hidle hs) he
  | ackTransfer | ackPulse | armPulse d | stopClock | startClock | startTransfer b | setRow r | gammaResult v => cases hcmd

/-- A pending completion is due, and its event brings the next turn (R105). -/
theorem exec_event_inOrder (hclosed : s.cfg.use = .closedUse) (hprimed : s.primed) (hs : InOrder s) (ha : eventOf a = some i)
    (hen : enabled s a = true) (he : exec i s = .next t) : InOrder t := by
  have hdue := due_of_enabled hclosed hs.1 hen
  cases a with
  | transferByte | pulseEnd => cases ha
  | transferEvent =>
    cases ha
    obtain ⟨u, hu, hnext, hfault⟩ := exec_transferComplete_due hclosed hprimed hdue
    cases he.symm.trans hu
    exact hnext.inOrder hfault hs.2
  | pulseEvent =>
    cases ha
    obtain ⟨u, hu, hnext, hfault⟩ := exec_pulseComplete_due hclosed hprimed hdue
    cases he.symm.trans hu
    exact hnext.inOrder hfault hs.2

theorem encode_of_commandOf {cmd : Command} (h : commandOf i = some cmd) : encode i = .cmd (encodeCommand cmd) := by
  cases i <;> cases h <;> rfl

/-- Under R105's delivery rule a word names neither an event nor a command. -/
theorem delivered_word {w : PortWord} {rest : List Input} (hdelivered : s.delivered) (hin : s.inputs = .word w :: rest)
    (hd : decode w = .ok i) : i ≠ .transferComplete ∧ i ≠ .pulseComplete ∧ commandOf i = none := by
  obtain ⟨htc, hpc, hcmd⟩ := hdelivered w rest hin
  obtain ⟨-, rfl⟩ := encodeOfDecodeIsTheWord w i hd
  refine ⟨?_, ?_, Option.eq_none_iff_forall_ne_some.2 fun cmd hcommand => hcmd _ (encode_of_commandOf hcommand)⟩
  · rintro rfl
    exact htc rfl
  · rintro rfl
    exact hpc rfl

/-- Settles O52, by the ways of a step: an agent that moves is the one that is due, and its step brings the next turn of R107; the
delivery rule leaves START as the only word that starts a collaborator; what is primed stays primed. -/
theorem deliveredStepKeepsClosedOrder : Obligations.DeliveredStepKeepsClosedOrder := by
  rintro s t ⟨hclosed, hfollow, hprimed, hnoFault⟩ hdelivered hstep
  have hs : InOrder s := ⟨hfollow, hnoFault⟩
  have hclosed' : t.cfg.use = .closedUse := (noStepWritesTheConfiguration s t hstep) ▸ hclosed
  suffices hkept : t.primed ∧ InOrder t by
    obtain ⟨hprimed', hfollow', hnoFault'⟩ := hkept
    exact ⟨hclosed', hfollow', hprimed', hnoFault'⟩
  obtain ⟨-, -, hmove⟩ := step_moves hstep
  cases hmove with
  | word w ins i hin hd he =>
    obtain ⟨htc, hpc, hcmd⟩ := delivered_word hdelivered hin hd
    exact ⟨exec_primed (s := { s with inputs := ins }) hprimed he,
      exec_inOrder (s := { s with inputs := ins }) hclosed hs htc hpc hcmd he⟩
  | event ins a i ha hen he =>
    exact ⟨exec_primed (s := { s with inputs := ins }) hprimed he,
      exec_event_inOrder (s := { s with inputs := ins }) hclosed hprimed hs ha ((enabled_inputs s ins a).trans hen) he⟩
  | byte ins hen ht =>
    have hdue : Due { s with inputs := ins } .transferByte := due_of_enabled hclosed hfollow ((enabled_inputs s ins _).trans hen)
    obtain ⟨b, hnext, hfault⟩ := hdue.byteStep
    obtain ⟨e, hbyte⟩ := byteStep_within { s with inputs := ins }
    subst ht
    exact ⟨hbyte ▸ hprimed, hnext.inOrder hfault hnoFault⟩
  | pulse ins hen ht =>
    have hdue : Due { s with inputs := ins } .pulseEnd := due_of_enabled hclosed hfollow ((enabled_inputs s ins _).trans hen)
    subst ht
    exact ⟨hprimed, hdue.pulseEndStep.inOrder rfl hnoFault⟩
  | refusal ins c ht | host ins h y x ch v hin hni ht | wait ins ht => subst ht; exact ⟨hprimed, hs⟩

end Sys2Proof.Machine
end

section
/-! Faults (60_exceptions.md): each instruction takes its effect or the fault of R109's table (O9). For each operation one lemma
gives each fault of its row, and one the state in which its commands have all gone out, in open and in closed use alike. -/

namespace Sys2Proof.Machine

/-! ### One instruction in one state: its fault or its effect -/

/-- O9's statement for one instruction in one state. -/
def TakesEffectOrFault (i : Instr) (s : State) : Prop :=
  (∀ f, faultIn i s = some f → exec i s = .next { s with fault := some f }) ∧
  (faultIn i s = none → ∃ t, exec i s = .next t ∧ (effectIn i s).leads s t)

section

variable {i : Instr} {s t : State} {f : FaultRecord}

/-- The table gives a fault, and the instruction answers it. -/
theorem TakesEffectOrFault.fault (hf : faultIn i s = some f) (he : exec i s = .next (raiseFault f s)) :
    TakesEffectOrFault i s := by
  refine ⟨fun f' hf' => ?_, fun hnone => ?_⟩
  · cases hf.symm.trans hf'
    exact he
  · cases hf.symm.trans hnone

/-- The table gives none, and the instruction's next state has its effect. -/
theorem TakesEffectOrFault.effect (hf : faultIn i s = none) (he : exec i s = .next t) (ht : (effectIn i s).leads s t) :
    TakesEffectOrFault i s := by
  refine ⟨fun f hsome => ?_, fun _ => ⟨t, he, ht⟩⟩
  cases hf.symm.trans hsome

end

/-! ### The entries of R109's table -/

theorem loadFault_none {s : State} {r : RowPair} (hh : loadHandle r s = none) : s.loadFault r = some (.noFramebuffer r) :=
  if_pos hh

theorem loadFault_some {s : State} {r : RowPair} {h : Handle} (hh : loadHandle r s = some h) : s.loadFault r = none :=
  if_neg (by simp [hh])

theorem closedOnly_open {s : State} (hopen : s.cfg.use = .openUse) (f : Option FaultRecord) : s.closedOnly f = none :=
  if_neg (by simp [hopen])

theorem closedOnly_closed {s : State} (hclosed : s.cfg.use = .closedUse) (f : Option FaultRecord) : s.closedOnly f = f :=
  if_pos hclosed

theorem startTransfer_fault {b : BankIx} {s : State} {f : FaultRecord} (hf : s.transferFault b = some f) :
    startTransfer b s = .error f := by
  cases hx : s.xfer with
  | some x =>
    obtain rfl : .collabBusy (encodeCommand (.startTransfer b)) = f := by simpa [State.transferFault, hx] using hf
    exact startTransfer_busy hx
  | none =>
    obtain ⟨j, hj, rfl⟩ : ∃ j, firstMissingByte (s.bank b) = some j ∧ .unwrittenByte b j = f := by
      simpa [State.transferFault, hx] using hf
    exact startTransfer_missing hx hj

theorem transferFault_eq_none_iff {b : BankIx} {s : State} :
    s.transferFault b = none ↔ s.xfer = none ∧ BankFull (s.bank b) := by
  cases hx : s.xfer with
  | none => simp [State.transferFault, hx, firstMissingByte_eq_none_iff, BankFull]
  | some x => simp [State.transferFault, hx]

@[simp] theorem transferFault_record (c : Command) (b : BankIx) (s : State) :
    (record c s).transferFault b = s.transferFault b := rfl

@[simp] theorem transferFault_setRowaddr (r : RowPair) (b : BankIx) (s : State) :
    (setRowaddr r s).transferFault b = s.transferFault b := rfl

@[simp] theorem transferFault_clearPulseDone (b : BankIx) (s : State) :
    (clearPulseDone s).transferFault b = s.transferFault b := rfl

theorem renderPhase_fault {p : Phase} {b : BankIx} {s : State} {f : FaultRecord} (hf : s.renderFault = some f) :
    renderPhase p b s = .error f := by
  obtain ⟨c, k, hck, hrender⟩ | ⟨hfull, -⟩ := renderPhase_cases p b s
  · rw [hrender]
    simpa [State.renderFault, hck] using hf
  · simp [State.renderFault, hfull] at hf

theorem renderFault_eq_none_iff {s : State} : s.renderFault = none ↔ firstUnwritten s.rc = none := by
  simp [State.renderFault]

/-! ### START (R80) -/

theorem faultIn_start {s : State} (hidle : s.proto = .idle) :
    faultIn .start s =
      (s.loadFault 0).or (s.closedOnly (if s.xfer ≠ none then some (.collabBusy 0x60000041) else none)) :=
  if_neg (not_not.2 hidle)

theorem exec_start_started {s : State} (hstarted : s.proto ≠ .idle) :
    exec .start s = .next (raiseFault (.doubleStart (encode .start)) s) := by
  rw [exec, execStart, if_neg hstarted, commit_error]

theorem exec_start_noFramebuffer {s : State} (hidle : s.proto = .idle) (href : s.fbref = none) :
    exec .start s = .next (raiseFault (.noFramebuffer 0) s) := by
  have hload : loadHandle 0 (setActive 0 (setPhase 0 (setRowPair 0 s))) = none := (loadHandle_zero _).trans href
  rw [exec, execStart, if_pos hidle, primePipeline, loadRowCache_none hload, error_bind_op, commit_error]

/-- The load comes before the transfer, so START meets a busy transfer engine only with a framebuffer to load (R112). -/
theorem exec_start_busy {s : State} {h : Handle} {x : Transfer} (hidle : s.proto = .idle) (hclosed : s.cfg.use = .closedUse)
    (href : s.fbref = some h) (hxfer : s.xfer = some x) :
    exec .start s = .next (raiseFault (.collabBusy (encodeCommand (.startTransfer 0))) s) := by
  have hbusy : (record (.startTransfer 0) (phaseZeroRendered h s)).xfer = some x := hxfer
  rw [exec, execStart, if_pos hidle, primePipeline_emits href, emit_closed (s := phaseZeroRendered h s) _ hclosed,
    applyCommand_startTransfer, startTransfer_busy hbusy, error_bind_op, commit_error]

theorem start_takesEffectOrFault (s : State) : TakesEffectOrFault .start s := by
  by_cases hidle : s.proto = .idle
  · cases href : s.fbref with
    | none =>
      have hf := faultIn_start hidle
      rw [loadFault_none ((loadHandle_zero s).trans href), Option.some_or] at hf
      exact .fault hf (exec_start_noFramebuffer hidle href)
    | some h =>
      have hf := faultIn_start hidle
      rw [loadFault_some ((loadHandle_zero s).trans href), Option.none_or] at hf
      cases huse : s.cfg.use with
      | openUse =>
        exact .effect (hf.trans (closedOnly_open huse _)) (exec_start_open hidle huse href) (by and_intros <;> rfl)
      | closedUse =>
        rw [closedOnly_closed huse] at hf
        cases hxfer : s.xfer with
        | none =>
          exact .effect (hf.trans (if_neg (by simp [hxfer]))) (exec_start_closed hidle huse hxfer href) (by and_intros <;> rfl)
        | some x => exact .fault (hf.trans (if_pos (by simp [hxfer]))) (exec_start_busy hidle huse href hxfer)
  · exact .fault (if_pos hidle) (exec_start_started hidle)

/-! ### TRANSFER_COMPLETE (R81) -/

/-- `s` after the commands `cs` have gone out, with the collaborators and the displays of `e`. -/
def commanded (cs : List Command) (e s : State) : State :=
  { s with
    cmds := s.cmds ++ cs.map encodeCommand
    clkRun := e.clkRun, xfer := e.xfer, tcPend := e.tcPend, pulse := e.pulse, pcPend := e.pcPend, oeN := e.oeN
    displays := e.displays }

/-- The commands of TRANSFER_COMPLETE (R81). -/
def transferCommands (s : State) : List Command :=
  [.ackTransfer, .armPulse (pulseTicks s.cfg.base (prevPhase s.ph)), .stopClock]

/-- In open use, or in closed use with no pulse in progress, TRANSFER_COMPLETE's commands all go out. -/
theorem exec_transferComplete_free {s : State} (hawait : s.proto = .awaitTC)
    (hfree : s.cfg.use = .closedUse → s.pulse = none) :
    ∃ e, exec .transferComplete s =
      commit s (reloadIfPending (commanded (transferCommands s) e s) >>= fun u => .ok (setProto .awaitPC u)) := by
  have hordered (d : Ticks) : pulseOrdered d s = commanded [.ackTransfer, .armPulse d, .stopClock] s s := by
    simp [pulseOrdered, commanded, encodeCommand_ackTransfer, encodeCommand_armPulse, encodeCommand_stopClock]
  cases huse : s.cfg.use with
  | openUse =>
    refine ⟨s, ?_⟩
    rw [exec_transferComplete_open hawait huse, hordered]
    rfl
  | closedUse =>
    refine ⟨pulseStarted (pulseTicks s.cfg.base (prevPhase s.ph)) s, ?_⟩
    rw [exec_transferComplete_closed hawait huse (hfree huse), pulseStarted, hordered]
    rfl

theorem exec_transferComplete_busy {s : State} {d : Ticks} (hawait : s.proto = .awaitTC) (hclosed : s.cfg.use = .closedUse)
    (hpulse : s.pulse = some d) :
    exec .transferComplete s =
      .next (raiseFault (.collabBusy (encodeCommand (.armPulse (pulseTicks s.cfg.base (prevPhase s.ph))))) s) := by
  rw [exec, execTransferComplete, if_pos hawait, transferDone]
  simp [emit_closed, hclosed, armPulse_busy, hpulse]

theorem faultIn_transferComplete {s : State} (hawait : s.proto = .awaitTC) :
    faultIn .transferComplete s =
      (s.closedOnly (s.pulseFault (pulseTicks s.cfg.base (prevPhase s.ph)))).or
        (if s.ph = 0 then s.loadFault (s.rp + 1) else none) :=
  if_neg (not_not.2 hawait)

/-- In open use, or in closed use with no pulse in progress, no pulse is in the way of another. -/
theorem closedOnly_pulseFault_eq_none {s : State} {d : Ticks} (hfree : s.cfg.use = .closedUse → s.pulse = none) :
    s.closedOnly (s.pulseFault d) = none := by
  simpa [State.closedOnly, State.pulseFault] using hfree

theorem transferComplete_takesEffectOrFault (s : State) : TakesEffectOrFault .transferComplete s := by
  by_cases hawait : s.proto = .awaitTC
  · have hf := faultIn_transferComplete hawait
    by_cases hbusy : s.cfg.use = .closedUse ∧ s.pulse ≠ none
    · obtain ⟨hclosed, hpulse⟩ := hbusy
      obtain ⟨d, hd⟩ := Option.ne_none_iff_exists'.1 hpulse
      rw [closedOnly_closed hclosed, State.pulseFault, if_pos hpulse, Option.some_or] at hf
      exact .fault hf (exec_transferComplete_busy hawait hclosed hd)
    · have hfree : s.cfg.use = .closedUse → s.pulse = none := by simpa using hbusy
      rw [closedOnly_pulseFault_eq_none hfree, Option.none_or] at hf
      obtain ⟨e, he⟩ := exec_transferComplete_free hawait hfree
      by_cases hp : s.ph = 0
      · rw [if_pos hp] at hf
        cases hh : loadHandle (s.rp + 1) s with
        | none =>
          rw [reloadIfPending_none (u := commanded _ e s) hp rfl rfl rfl rfl hh] at he
          exact .fault (hf.trans (loadFault_none hh)) he
        | some h =>
          rw [reloadIfPending_pending (u := commanded _ e s) hp rfl rfl rfl rfl hh] at he
          exact .effect (hf.trans (loadFault_some hh)) he
            (by simp only [effectIn, if_pos hp]; exact ⟨rfl, rfl, hp.symm, rfl, rfl, rfl, rfl, rfl, rfl, rfl, rfl, rfl⟩)
      · rw [reloadIfPending_of_ne (s := commanded _ e s) hp] at he
        exact .effect (hf.trans (if_neg hp)) he (by simp only [effectIn, if_neg hp]; and_intros <;> rfl)
  · exact .fault (if_pos hawait) (by rw [exec, execTransferComplete, if_neg hawait, commit_error])

/-! ### PULSE_COMPLETE (R84) -/

/-- The commands of PULSE_COMPLETE (R84). -/
def pulseCommands (s : State) : List Command := [.ackPulse, .setRow s.rp, .startTransfer s.ab, .startClock]

/-- In open use, or in closed use where the old bank can be sent, PULSE_COMPLETE's commands all go out and the banks flip. -/
theorem exec_pulseComplete_free {s : State} (hawait : s.proto = .awaitPC)
    (hfree : s.cfg.use = .closedUse → s.transferFault s.ab = none) :
    ∃ e, exec .pulseComplete s =
      commit s (advancePhase (flipped (commanded (pulseCommands s) e s)) >>= fun u => .ok (setProto .awaitTC u)) := by
  have hordered : transferOrdered s = setRowaddr s.rp (commanded (pulseCommands s) s s) := by
    simp [transferOrdered, setRowaddr, commanded, pulseCommands, encodeCommand_ackPulse, encodeCommand_setRow,
      encodeCommand_startTransfer, encodeCommand_startClock]
  cases huse : s.cfg.use with
  | openUse =>
    refine ⟨s, ?_⟩
    rw [exec_pulseComplete_open hawait huse, hordered]
    rfl
  | closedUse =>
    obtain ⟨hxfer, hfull⟩ := transferFault_eq_none_iff.1 (hfree huse)
    refine ⟨transferStarted s, ?_⟩
    rw [exec_pulseComplete_closed hawait huse hxfer hfull, transferStarted, hordered]
    rfl

theorem exec_pulseComplete_noTransfer {s : State} {f : FaultRecord} (hawait : s.proto = .awaitPC)
    (hclosed : s.cfg.use = .closedUse) (hf : s.transferFault s.ab = some f) :
    exec .pulseComplete s = .next (raiseFault f s) := by
  have hstart : startTransfer s.ab (record (.startTransfer s.ab) (setRowaddr s.rp (record (.setRow s.rp)
      (clearPulseDone (record .ackPulse s))))) = .error f := startTransfer_fault (by simpa using hf)
  rw [exec, execPulseComplete, if_pos hawait, pulseDone]
  simp [emit_closed, hclosed, hstart]

theorem faultIn_pulseComplete {s : State} (hawait : s.proto = .awaitPC) :
    faultIn .pulseComplete s =
      (s.closedOnly (s.transferFault s.ab)).or (if s.ph < 9 then s.renderFault else none) :=
  if_neg (not_not.2 hawait)

theorem pulseComplete_takesEffectOrFault (s : State) : TakesEffectOrFault .pulseComplete s := by
  by_cases hawait : s.proto = .awaitPC
  · have hf := faultIn_pulseComplete hawait
    cases hbusy : s.closedOnly (s.transferFault s.ab) with
    | some f =>
      rw [hbusy, Option.some_or] at hf
      obtain ⟨hclosed, hbusy⟩ := Option.ite_none_right_eq_some.1 hbusy
      exact .fault hf (exec_pulseComplete_noTransfer hawait hclosed hbusy)
    | none =>
      rw [hbusy, Option.none_or] at hf
      obtain ⟨e, he⟩ := exec_pulseComplete_free hawait (ite_eq_right_iff.1 hbusy)
      by_cases hp : s.ph < 9
      · rw [if_pos hp] at hf
        cases hrender : s.renderFault with
        | some f =>
          have hadvance : advancePhase (flipped (commanded (pulseCommands s) e s)) = .error f :=
            (if_pos hp).trans (renderPhase_fault hrender)
          rw [hadvance] at he
          exact .fault (hf.trans hrender) he
        | none =>
          have hfull := renderFault_eq_none_iff.1 hrender
          rw [advancePhase_render (s := flipped (commanded (pulseCommands s) e s)) hp hfull] at he
          exact .effect (hf.trans hrender) he (by simp only [effectIn, if_pos hp]; and_intros <;> rfl)
      · rw [advancePhase_last (s := flipped (commanded (pulseCommands s) e s)) (Nat.le_of_not_lt hp)] at he
        exact .effect (hf.trans (if_neg hp)) he (by simp only [effectIn, if_neg hp]; and_intros <;> rfl)
  · exact .fault (if_pos hawait) (by rw [exec, execPulseComplete, if_neg hawait, commit_error])

/-! ### The test port (R122) -/

theorem testPort_started {s : State} (i : Instr) (body : State → Except FaultRecord State) (hstarted : s.proto ≠ .idle) :
    testPort i body s = .next (raiseFault (.testAfterStart (encode i)) s) := by
  rw [testPort, if_neg hstarted, commit_error]

theorem tGamma_takesEffectOrFault (x : Sample) (s : State) : TakesEffectOrFault (.tGamma x) s := by
  by_cases hidle : s.proto = .idle
  · have he : exec (.tGamma x) s = .next (record (.gammaResult (gammaRead s.cfg x)) s) := by
      rw [exec, execTGamma, testPort_idle _ _ hidle, emit_gammaResult, commit_ok]
    exact .effect (if_neg (not_not.2 hidle)) he (by and_intros <;> rfl)
  · exact .fault (if_pos hidle) (testPort_started _ _ hidle)

theorem faultIn_tLoad {s : State} (r : RowPair) (hidle : s.proto = .idle) : faultIn (.tLoad r) s = s.loadFault r :=
  if_neg (not_not.2 hidle)

theorem tLoad_takesEffectOrFault (r : RowPair) (s : State) : TakesEffectOrFault (.tLoad r) s := by
  by_cases hidle : s.proto = .idle
  · obtain ⟨hh, hload⟩ | ⟨h, hh, hload⟩ := loadRowCache_cases r s
    · have he : exec (.tLoad r) s = .next (raiseFault (.noFramebuffer r) s) := by
        rw [exec, execTLoad, testPort_idle _ _ hidle, hload, commit_error]
      exact .fault ((faultIn_tLoad r hidle).trans (loadFault_none hh)) he
    · exact .effect ((faultIn_tLoad r hidle).trans (loadFault_some hh)) (exec_tLoad_idle hidle hh)
        (by simp [CoreEffect.leads, effectIn, State.keeps])
  · exact .fault (if_pos hidle) (testPort_started _ _ hidle)

theorem faultIn_tRender {s : State} (p : Phase) (b : BankIx) (hidle : s.proto = .idle) :
    faultIn (.tRender p b) s = s.renderFault :=
  if_neg (not_not.2 hidle)

theorem tRender_takesEffectOrFault (p : Phase) (b : BankIx) (s : State) : TakesEffectOrFault (.tRender p b) s := by
  by_cases hidle : s.proto = .idle
  · have he : exec (.tRender p b) s = commit s (renderPhase p b s) := testPort_idle _ _ hidle
    cases hrender : s.renderFault with
    | some f =>
      rw [renderPhase_fault hrender] at he
      exact .fault ((faultIn_tRender p b hidle).trans hrender) he
    | none =>
      rw [renderPhase_full (renderFault_eq_none_iff.1 hrender)] at he
      exact .effect ((faultIn_tRender p b hidle).trans hrender) he (by simp [CoreEffect.leads, effectIn, State.keeps])
  · exact .fault (if_pos hidle) (testPort_started _ _ hidle)

/-! ### The commands that can fault (R99, R100) -/

theorem armPulse_takesEffectOrFault (d : Ticks) (s : State) : TakesEffectOrFault (.armPulse d) s := by
  have he := exec_armPulse d s
  cases hpulse : s.pulse with
  | none =>
    rw [armPulse_free (s := record _ s) hpulse] at he
    exact .effect (by simp [faultIn, State.pulseFault, hpulse]) he (by and_intros <;> rfl)
  | some x =>
    rw [armPulse_busy (s := record _ s) hpulse] at he
    exact .fault (by simp [faultIn, State.pulseFault, hpulse]) he

theorem startTransfer_takesEffectOrFault (b : BankIx) (s : State) : TakesEffectOrFault (.startTransfer b) s := by
  have he := exec_startTransfer b s
  cases hf : s.transferFault b with
  | some f =>
    rw [startTransfer_fault (s := record _ s) hf] at he
    exact .fault hf he
  | none =>
    obtain ⟨hxfer, hfull⟩ := transferFault_eq_none_iff.1 hf
    rw [startTransfer_free (s := record _ s) hxfer ((firstMissingByte_eq_none_iff _).2 hfull)] at he
    exact .effect hf he (by and_intros <;> rfl)

/-- Settles O9: each operation meets the faults of its row of R109's table one by one, and past them its state is known; the host
writes and the other commands have no check. -/
theorem instructionTakesItsEffectOrItsFault : Obligations.InstructionTakesItsEffectOrItsFault := by
  intro i s
  suffices htakes : TakesEffectOrFault i s from htakes
  cases i with
  | start => exact start_takesEffectOrFault s
  | transferComplete => exact transferComplete_takesEffectOrFault s
  | pulseComplete => exact pulseComplete_takesEffectOrFault s
  | tGamma x => exact tGamma_takesEffectOrFault x s
  | tLoad r => exact tLoad_takesEffectOrFault r s
  | tRender p b => exact tRender_takesEffectOrFault p b s
  | armPulse d => exact armPulse_takesEffectOrFault d s
  | startTransfer b => exact startTransfer_takesEffectOrFault b s
  | setBrightnessSkip n => exact .effect rfl rfl (by simp [CoreEffect.leads, effectIn, State.keeps])
  | setFramebuffer h => exact .effect rfl rfl (by simp [CoreEffect.leads, effectIn, State.keeps])
  | ackTransfer | ackPulse | stopClock | startClock | setRow r | gammaResult v =>
    exact .effect rfl rfl (by and_intros <;> rfl)

end Sys2Proof.Machine
end

section
/-! What follows from O9: a fault changes nothing else and sticks (O7), and where the codes of R109 arise (O17, O18, O22, O25,
O30). -/

namespace Sys2Proof.Machine

/-- R109's table, read as what the instruction answers (R110). -/
theorem exec_of_faultIn {i : Instr} {s : State} {f : FaultRecord} (hf : faultIn i s = some f) :
    exec i s = .next { s with fault := some f } :=
  (instructionTakesItsEffectOrItsFault i s).1 f hf

/-- An instruction sets the fault mark of the old state, or leaves both marks. -/
theorem exec_marks {i : Instr} {s t : State} (he : exec i s = .next t) :
    (∃ f, t = { s with fault := some f }) ∨ (t.fault = s.fault ∧ t.refused = s.refused) := by
  obtain ⟨hfaults, heffect⟩ := instructionTakesItsEffectOrItsFault i s
  cases hf : faultIn i s with
  | some f =>
    cases he.symm.trans (hfaults f hf)
    exact .inl ⟨f, rfl⟩
  | none =>
    obtain ⟨u, hu, -, -, -, -, -, -, -, -, -, -, hfault, hrefused⟩ := heffect hf
    cases he.symm.trans hu
    exact .inr ⟨hfault, hrefused⟩

/-- Settles O7: an effect leaves the marks (O9), the step looks at the mark first, and reset has none. -/
theorem faultHasNoOtherEffectAndSticks : Obligations.FaultHasNoOtherEffectAndSticks := by
  refine ⟨fun i s t he hmark => ?_, fun s f hf => ?_, rfl⟩
  · exact (exec_marks he).resolve_right fun hkept => hmark hkept.1
  · rw [step, fetch, hf, runFetch_answer]

/-- Settles O17: the three rows of R109's table that `loadFault` stands in; in START it is the first, and in TRANSFER_COMPLETE
it comes after the pulse's. -/
theorem loadWithoutFramebufferFaults : Obligations.LoadWithoutFramebufferFaults := by
  refine fun s => ⟨fun r hidle hh => exec_of_faultIn ?_, fun hidle href => exec_of_faultIn ?_,
    fun hawait hp hfree hh => exec_of_faultIn ?_⟩
  · rw [← loadHandle_eq] at hh
    exact (faultIn_tLoad r hidle).trans (loadFault_none hh)
  · rw [faultIn_start hidle, loadFault_none ((loadHandle_zero s).trans href), Option.some_or]
  · rw [faultIn_transferComplete hawait, closedOnly_pulseFault_eq_none hfree, Option.none_or, if_pos hp, loadFault_none hh]

/-- Settles O18: the first row of R109's table for each test-port operation. -/
theorem testPortFaultsAfterStart : Obligations.TestPortFaultsAfterStart :=
  fun _ _ _ _ _ hstarted =>
    ⟨exec_of_faultIn (if_pos hstarted), exec_of_faultIn (if_pos hstarted), exec_of_faultIn (if_pos hstarted)⟩

/-- Settles O25: the first row of R109's table for each scheduler operation. -/
theorem operationOutOfOrderFaults : Obligations.OperationOutOfOrderFaults :=
  fun _ => ⟨fun hstarted => exec_of_faultIn (if_pos hstarted), fun hawait => exec_of_faultIn (if_pos hawait),
    fun hawait => exec_of_faultIn (if_pos hawait)⟩

/-- Settles O30: the rows of R109's table that only closed use meets, with the command words of R62. -/
theorem busyCollaboratorFaults : Obligations.BusyCollaboratorFaults := by
  refine fun s hclosed => ⟨fun x h hidle href hxfer => exec_of_faultIn ?_, fun d hawait hpulse => exec_of_faultIn ?_,
    fun x hawait hxfer => exec_of_faultIn ?_⟩
  · rw [faultIn_start hidle, loadFault_some ((loadHandle_zero s).trans href), Option.none_or, closedOnly_closed hclosed,
      if_pos (by simp [hxfer])]
  · rw [faultIn_transferComplete hawait, closedOnly_closed hclosed, State.pulseFault, if_pos (by simp [hpulse]),
      Option.some_or, encodeCommand_armPulse, prevPhase]
  · rw [faultIn_pulseComplete hawait, closedOnly_closed hclosed, State.transferFault, if_pos (by simp [hxfer]),
      Option.some_or, encodeCommand_startTransfer]

/-! ### The first entry with no value (R74) -/

/-- The search in index order stops at the first index that answers. -/
theorem findSome?_finRange_eq_some {α : Type} {n : Nat} {g : Fin n → Option α} {i : Fin n} {a : α} (hi : g i = some a)
    (hbefore : ∀ j < i, g j = none) : (List.finRange n).findSome? g = some a := by
  induction n with
  | zero => exact i.elim0
  | succ n ih =>
    rw [List.finRange_succ, List.findSome?_cons, List.findSome?_map]
    cases i using Fin.cases with
    | zero => rw [hi]
    | succ i =>
      rw [hbefore 0 (Fin.succ_pos i)]
      exact ih hi fun j hj => hbefore j.succ (Fin.succ_lt_succ_iff.2 hj)

/-- Columns outermost: before `(c, k)` come the entries of the columns before `c`, and in column `c` the planes before `k`. -/
theorem firstUnwritten_eq_some {rc : RowCache} {c : Fin 64} {k : Fin 6} (hnone : rc[c][k] = none)
    (hbefore : ∀ (c' : Fin 64) (k' : Fin 6), c'.val * 6 + k'.val < c.val * 6 + k.val → rc[c'][k'] ≠ none) :
    firstUnwritten rc = some (c, k) := by
  refine findSome?_finRange_eq_some (i := c) ?_ fun c' hc' => List.findSome?_eq_none_iff.2 fun k' _ => ?_
  · refine findSome?_finRange_eq_some (i := k) (if_pos (by rw [hnone]; rfl)) fun k' hk' => if_neg ?_
    simpa using hbefore c k' (by omega)
  · refine if_neg ?_
    simpa using hbefore c' k' (by omega)

/-- Settles O22: the row of R109's table for T_RENDER, whose entry is the first one in R74's order. -/
theorem renderOfUnloadedEntryFaults : Obligations.RenderOfUnloadedEntryFaults := by
  intro s p b c k _ hidle hnone hbefore
  have hrender : s.renderFault = some (.unwritten c k) := by
    rw [State.renderFault, firstUnwritten_eq_some hnone hbefore, Option.map_some]
  exact exec_of_faultIn ((faultIn_tRender p b hidle).trans hrender)

end Sys2Proof.Machine
end

section
/-! Refused configurations (O8). -/

namespace Sys2Proof.Machine

/-- R63, in numbers: `BASE << 9` fits 28 bits exactly up to 2^19 - 1. -/
theorem baseAdmitted_iff (cfg : Config) : baseAdmitted cfg = true ↔ 1 ≤ cfg.base ∧ cfg.base ≤ 524287 := by
  rw [baseAdmitted, decide_eq_true_eq, Nat.shiftLeft_eq]
  omega

theorem configRefusal_gamma {cfg : Config} (h : ¬ gammaAdmitted cfg = true) : configRefusal cfg = some .gammaConfig := if_neg h

theorem configRefusal_base {cfg : Config} (hgamma : gammaAdmitted cfg = true) (hbase : ¬ baseAdmitted cfg = true) :
    configRefusal cfg = some .baseConfig :=
  (if_pos hgamma).trans (if_neg hbase)

/-- R111: a configuration that is not admitted is refused by the first step, whatever is scheduled. -/
theorem step_configRefused {s : State} {c : RefusalCode} (hfault : s.fault = none) (hrefused : s.refused = none)
    (hc : configRefusal s.cfg = some c) : step s = .next { s with refused := some c } := by
  simp [step, fetch, hfault, hrefused, hc, raiseRefusal]

/-- Settles O8: R67's and R63's checks in numbers, and the order in which the step makes them. -/
theorem configurationRefusedAsAWhole : Obligations.ConfigurationRefusedAsAWhole := by
  intro s hfault
  refine ⟨fun c hc => by simp [step, fetch, hfault, hc], fun hrefused => ⟨fun hbad => ?_, fun hrange hmono => ?_⟩⟩
  · refine step_configRefused hfault hrefused (configRefusal_gamma fun hadmitted => ?_)
    obtain ⟨hrange, hmono⟩ := (gammaAdmitted_iff s.cfg).1 hadmitted
    obtain ⟨i, hi⟩ | ⟨i, j, hij, hlt⟩ := hbad
    · exact Nat.not_lt.2 hi (hrange i)
    · exact Nat.not_lt.2 (hmono i j hij) hlt
  · have hgamma := (gammaAdmitted_iff s.cfg).2 ⟨hrange, hmono⟩
    refine ⟨fun hbad => ?_, fun hlow hhigh => ?_⟩
    · refine step_configRefused hfault hrefused (configRefusal_base hgamma fun hadmitted => ?_)
      have hbase := (baseAdmitted_iff s.cfg).1 hadmitted
      omega
    · exact ⟨hfault, hrefused, configRefusal_eq_none_iff.2 ⟨hgamma, (baseAdmitted_iff s.cfg).2 ⟨hlow, hhigh⟩⟩⟩

end Sys2Proof.Machine
end

section
/-! Waiting and running on (R106, R123): with nothing enabled the core waits (O44); in the order of closed use the agent that is due
moves, and the engine never stops (O54). -/

namespace Sys2Proof.Machine

variable {s t : State} {a : Agent}

/-- The order of the four agents does not matter where none or one is enabled (log entry 5). -/
theorem nextAgent_eq_none (hnone : ∀ a, enabled s a = false) : nextAgent s = none := by
  simp [nextAgent, hnone]

theorem nextAgent_eq_some (h : ∀ b, enabled s b = true ↔ b = a) : nextAgent s = some a := by
  have hother : ∀ b, b ≠ a → enabled s b = false := fun b hb => Bool.eq_false_iff.2 fun hen => hb ((h b).1 hen)
  have hsame := (h a).2 rfl
  cases a <;> simp [nextAgent, hsame, hother]

/-- Settles O44: an entry is dropped if its agent is not enabled, and with nothing scheduled the enabled agent is looked for. -/
theorem nothingEnabledMeansWaiting : Obligations.NothingEnabledMeansWaiting := by
  refine fun s a rest hready => ⟨fun hin hen => ?_, fun hin hnone => ?_⟩
  · rw [step_ready hready, fetchInput_agent hin, fetchAgent, enabled_inputs, hen, if_neg Bool.false_ne_true, runFetch_answer]
  · rw [step_ready hready, fetchInput, hin, fetchIdle, nextAgent_eq_none hnone, runFetch_answer]

/-! ### What an agent's step leaves -/

theorem CoreMove.inputs_eq {c : State} {i : Instr} (hmove : CoreMove s i c) : c.inputs = s.inputs := by
  cases hmove <;> rfl

theorem exec_inputs {i : Instr} (he : exec i s = .next t) : t.inputs = s.inputs := by
  obtain ⟨c, e, hmove, rfl⟩ := exec_coreMove he
  exact hmove.inputs_eq

theorem exec_refused {i : Instr} (he : exec i s = .next t) : t.refused = s.refused := by
  obtain ⟨f, rfl⟩ | ⟨-, hrefused⟩ := exec_marks he
  · rfl
  · exact hrefused

theorem advanceTransfer_refused (x : Transfer) (s : State) : (advanceTransfer x s).refused = s.refused := by
  unfold advanceTransfer
  split <;> rfl

theorem byteStep_refused (s : State) : (byteStep s).refused = s.refused := by
  unfold byteStep
  split
  · rfl
  · split
    · exact advanceTransfer_refused _ _
    · rfl

theorem byteStep_inputs (s : State) : (byteStep s).inputs = s.inputs := by
  obtain ⟨e, hbyte⟩ := byteStep_within s
  rw [hbyte, within_inputs]

/-- An agent schedules nothing and refuses nothing. -/
theorem agentStep_frame (h : runFetch (agentStep a s) = .next t) : t.inputs = s.inputs ∧ t.refused = s.refused := by
  cases a with
  | transferByte => cases h; exact ⟨byteStep_inputs s, byteStep_refused s⟩
  | pulseEnd => cases h; exact ⟨rfl, rfl⟩
  | transferEvent | pulseEvent =>
    rw [agentStep, runFetch_run] at h
    exact ⟨exec_inputs h, exec_refused h⟩

/-- The agent that is due makes its step without a fault, and another is due after it (R107). -/
theorem Due.agentStep (hdue : Due s a) (hclosed : s.cfg.use = .closedUse) (hprimed : s.primed) :
    ∃ t b, runFetch (agentStep a s) = .next t ∧ Due t b ∧ t.fault = s.fault := by
  cases a with
  | transferByte =>
    obtain ⟨b, hnext, hfault⟩ := hdue.byteStep
    exact ⟨_, b, rfl, hnext, hfault⟩
  | pulseEnd => exact ⟨_, _, rfl, hdue.pulseEndStep, rfl⟩
  | transferEvent =>
    obtain ⟨u, hu, hnext, hfault⟩ := exec_transferComplete_due hclosed hprimed hdue
    exact ⟨u, _, hu, hnext, hfault⟩
  | pulseEvent =>
    obtain ⟨u, hu, hnext, hfault⟩ := exec_pulseComplete_due hclosed hprimed hdue
    exact ⟨u, _, hu, hnext, hfault⟩

/-! ### The engine after START -/

/-- The engine runs on its own: it is enabled, started and in the order of closed use, and nothing is scheduled. -/
structure Running (s : State) : Prop where
  ready : s.ready
  inOrder : s.closedInOrder
  started : s.proto ≠ .idle
  inputs : s.inputs = []

/-- Whose turn it is, moves; the order is kept (O52), so the engine still runs. -/
theorem Running.step_next (hs : Running s) : ∃ t, step s = .next t ∧ Running t := by
  obtain ⟨hready, hinOrder, hstarted, hin⟩ := hs
  have ⟨hclosed, hfollow, hprimed, _⟩ := hinOrder
  obtain ⟨a, hdue⟩ := (collaboratorsFollow_iff_due hstarted).1 hfollow
  have hstep := step_nextAgent hready hin (nextAgent_eq_some (hdue.enabled_iff hclosed))
  obtain ⟨t, b, ht, hnext, hfault⟩ := hdue.agentStep hclosed hprimed
  obtain ⟨hinputs, hrefused⟩ := agentStep_frame ht
  rw [ht] at hstep
  have hcfg := noStepWritesTheConfiguration s t hstep
  have hdelivered : s.delivered := by simp [State.delivered, hin]
  have hready' : t.ready := ⟨hfault.trans hready.1, hrefused.trans hready.2.1, hcfg ▸ hready.2.2⟩
  exact ⟨t, hstep, hready', deliveredStepKeepsClosedOrder s t hinOrder hdelivered hstep, hnext.started, hinputs.trans hin⟩

theorem Running.run_next (hs : Running s) (n : Nat) : ∃ t, Host.Core.run Sys2Proof.core n s = .next t ∧ Running t := by
  induction n generalizing s with
  | zero => exact ⟨s, rfl, hs⟩
  | succ n ih =>
    obtain ⟨u, hu, hrunning⟩ := hs.step_next
    rw [run_succ n hu]
    exact ih hrunning

/-- Settles O54, by induction on the number of steps: a running engine takes a step and still runs. -/
theorem startedEngineRunsIndefinitely : Obligations.StartedEngineRunsIndefinitely := by
  intro s n hready hinOrder hstarted hin
  obtain ⟨t, hrun, hready', -, hstarted', -⟩ := Running.run_next ⟨hready, hinOrder, hstarted, hin⟩ n
  exact ⟨t, hrun, hready'.1, hready'.2.1, hstarted'⟩

end Sys2Proof.Machine
end

section
/-! The state after reset (R124): what reads of the two memories give there, and the table of reset values. -/

namespace Sys2Proof.Machine

/-- Every element of the row cache is UNWRITTEN (R27). -/
theorem reset_rc_getElem (c : Fin 64) (k : Fin 6) : State.reset.rc[c][k] = none := by
  simp [State.reset]

/-- Every byte of either line buffer is UNWRITTEN (R28). -/
theorem reset_bank_getElem (b : BankIx) (j : Fin 65) : (State.reset.bank b)[j] = none := by
  unfold State.bank
  split <;> simp [State.reset]

/-- Settles O48: the two memories by their read lemmas, every other field by the definition of the reset state. -/
theorem resetStateIsAsGiven : Obligations.ResetStateIsAsGiven :=
  ⟨rfl, rfl, rfl, rfl, rfl, rfl, rfl, rfl, reset_rc_getElem, reset_bank_getElem,
    rfl, rfl, rfl, rfl, rfl, rfl, rfl, rfl, rfl, rfl, rfl⟩

end Sys2Proof.Machine
end
